-- ==== Sys2Proof/Word.lean ====
section
/-! DEFINITION. The two widths of CORE (spec/00_scope.md R5: REG_W = 8, ADDR_W = 16). -/

namespace Sys2Proof

/-- REG_W = 8: a general register, a memory byte, a latch, a port number, an opcode byte (R5, R6). -/
abbrev Byte := BitVec 8

/-- ADDR_W = 16: SP, PC, a memory address, a register pair, the shift register (R5, R6). -/
abbrev Word := BitVec 16

end Sys2Proof
end

