-- ==== Sys2Proof/Config.lean ====
section
/-! DEFINITION. The parameters of CORE (spec/00_scope.md R5) and the model's one free value. -/

namespace Sys2Proof

/-- The parameter table of 00_scope.md R5, rows that are plain values. REG_W and ADDR_W are the types `Byte` and
`Word`; SHIFT_W is the type of `State.shift`; N_IN, N_OUT and N_VECTORS are the shapes of `InLatches`, `OutLatches` and
`Request.vector`; COUNT_W and QUEUE_CAP are unbounded, so the counter is a natural number and the queue a list
(decisions D20, D21; log entry 6). -/
structure Config where
  memSize : Nat
  romBase : Word
  vramBase : Word
  vramLen : Nat
  portShiftRead : Byte
  portShiftAmount : Byte
  portShiftData : Byte
  vectorStride : Nat
  tickVectorMid : BitVec 3
  tickDelayMid : Nat
  tickVectorEnd : BitVec 3
  tickDelayEnd : Nat
  rstDelay : Nat
  intEntryClearsIE : Bool
  deriving DecidableEq, Repr

/-- The values this hardware takes (R5). `memSize`, `rstDelay` and `intEntryClearsIE` are open parameters of the spec
at the value it gives them (decisions D4, D12, D13; log entry 6, UNVERIFIED). -/
def config : Config where
  memSize := 0x4000
  romBase := 0x0000
  vramBase := 0x2400
  vramLen := 7168
  portShiftRead := 3
  portShiftAmount := 2
  portShiftData := 4
  vectorStride := 8
  tickVectorMid := 2
  tickDelayMid := 0
  tickVectorEnd := 2
  tickDelayEnd := 25000
  rstDelay := 0
  intEntryClearsIE := false

/-- The undefined bit `draw(1)` of 00_scope.md R8, the n-th time one is taken: nothing constrains it (log entry 4).
Only AC after ANA, ANI, ORA and ORI takes one (42_logical.md R160, R166; decision D9). -/
opaque freeBit : Nat → Bool

end Sys2Proof
end

