-- ==== Sys2Proof/Syntax.lean ====
section
/-! DEFINITION. The instructions of CORE: one constructor per row of spec/opcode_table.json (84 rows over the 256
opcode bytes, spec/30_encoding.md R90), with the operands the row's fields and operand bytes name. -/

namespace Sys2Proof

/-- The seven general registers (10_state.md R21). Code 6 of a register field is no register but the memory operand M
(30_encoding.md R82), so a form with M has a constructor of its own in `Instr`. -/
inductive Reg where
  | b | c | d | e | h | l | a
  deriving DecidableEq, Repr

/-- The register pairs of a 2-bit pair field: code 3 is SP for LXI, INX, DCX and DAD. For PUSH and POP code 3 is PSW,
which is a constructor of its own in `Instr` (30_encoding.md R83). -/
inductive RegPair where
  | bc | de | hl | sp
  deriving DecidableEq, Repr

/-- The eight conditions (30_encoding.md R84). -/
inductive Cond where
  | nz | z | nc | c | po | pe | p | m
  deriving DecidableEq, Repr

/-- The instruction forms. The last twelve are the unimplemented bytes, which are rows of the table too: their meaning
is the fatal condition UnrecognizedInstruction (30_encoding.md R91). -/
inductive Instr where
  /-- MOV r1,r2: R111. -/
  | movRR (dst src : Reg)
  /-- MOV r,M: R112. -/
  | movRM (dst : Reg)
  /-- MOV M,r: R113. -/
  | movMR (src : Reg)
  /-- MVI r,d8: R114. -/
  | mviR (dst : Reg) (d8 : Byte)
  /-- MVI M,d8: R115. -/
  | mviM (d8 : Byte)
  /-- LXI rp,d16: R116. -/
  | lxi (rp : RegPair) (d16 : Word)
  /-- LDA a16: R117. -/
  | lda (a16 : Word)
  /-- STA a16: R118. -/
  | sta (a16 : Word)
  /-- LHLD a16: R119. -/
  | lhld (a16 : Word)
  /-- SHLD a16: R120. -/
  | shld (a16 : Word)
  /-- LDAX rp: R121. -/
  | ldax (rp : RegPair)
  /-- STAX rp: R122. -/
  | stax (rp : RegPair)
  /-- XCHG: R123. -/
  | xchg
  /-- ADD r: R133. -/
  | addR (src : Reg)
  /-- ADD M: R134. -/
  | addM
  /-- ADI d8: R135. -/
  | adi (d8 : Byte)
  /-- ADC r: R136. -/
  | adcR (src : Reg)
  /-- ADC M: R137. -/
  | adcM
  /-- ACI d8: R138. -/
  | aci (d8 : Byte)
  /-- SUB r: R139. -/
  | subR (src : Reg)
  /-- SUB M: R140. -/
  | subM
  /-- SUI d8: R141. -/
  | sui (d8 : Byte)
  /-- SBB r: R142. -/
  | sbbR (src : Reg)
  /-- SBB M: R143. -/
  | sbbM
  /-- SBI d8: R144. -/
  | sbi (d8 : Byte)
  /-- INR r: R145. -/
  | inrR (dst : Reg)
  /-- INR M: R146. -/
  | inrM
  /-- DCR r: R147. -/
  | dcrR (dst : Reg)
  /-- DCR M: R148. -/
  | dcrM
  /-- INX rp: R149. -/
  | inx (rp : RegPair)
  /-- DCX rp: R150. -/
  | dcx (rp : RegPair)
  /-- DAD rp: R151. -/
  | dad (rp : RegPair)
  /-- DAA: R152. -/
  | daa
  /-- ANA r: R160. -/
  | anaR (src : Reg)
  /-- ANA M: R161. -/
  | anaM
  /-- ANI d8: R162. -/
  | ani (d8 : Byte)
  /-- XRA r: R163. -/
  | xraR (src : Reg)
  /-- XRA M: R164. -/
  | xraM
  /-- XRI d8: R165. -/
  | xri (d8 : Byte)
  /-- ORA r: R166. -/
  | oraR (src : Reg)
  /-- ORA M: R167. -/
  | oraM
  /-- ORI d8: R168. -/
  | ori (d8 : Byte)
  /-- CMP r: R169. -/
  | cmpR (src : Reg)
  /-- CMP M: R170. -/
  | cmpM
  /-- CPI d8: R171. -/
  | cpi (d8 : Byte)
  /-- RLC: R172. -/
  | rlc
  /-- RRC: R173. -/
  | rrc
  /-- RAL: R174. -/
  | ral
  /-- RAR: R175. -/
  | rar
  /-- CMA: R176. -/
  | cma
  /-- CMC: R177. -/
  | cmc
  /-- STC: R178. -/
  | stc
  /-- JMP a16: R191. -/
  | jmp (a16 : Word)
  /-- Jccc a16: R192. -/
  | jcond (ccc : Cond) (a16 : Word)
  /-- CALL a16: R193. -/
  | call (a16 : Word)
  /-- Cccc a16: R194. -/
  | ccond (ccc : Cond) (a16 : Word)
  /-- RET: R195. -/
  | ret
  /-- Rccc: R196. -/
  | rcond (ccc : Cond)
  /-- RST n: R197. -/
  | rst (n : BitVec 3)
  /-- PCHL: R198. -/
  | pchl
  /-- PUSH rp: R212. -/
  | pushRp (rp : RegPair)
  /-- PUSH PSW: R213. -/
  | pushPsw
  /-- POP rp: R214. -/
  | popRp (rp : RegPair)
  /-- POP PSW: R215. -/
  | popPsw
  /-- XTHL: R216. -/
  | xthl
  /-- SPHL: R217. -/
  | sphl
  /-- EI: R218. -/
  | ei
  /-- DI: R219. -/
  | di
  /-- HLT: R220. -/
  | hlt
  /-- NOP: R221. -/
  | nop
  /-- IN port: R234. -/
  | inPort (port : Byte)
  /-- OUT port: R235. -/
  | outPort (port : Byte)
  /-- the unimplemented byte 0x08: R91. -/
  | unimpl08
  /-- the unimplemented byte 0x10: R91. -/
  | unimpl10
  /-- the unimplemented byte 0x18: R91. -/
  | unimpl18
  /-- the unimplemented byte 0x20: R91. -/
  | unimpl20
  /-- the unimplemented byte 0x28: R91. -/
  | unimpl28
  /-- the unimplemented byte 0x30: R91. -/
  | unimpl30
  /-- the unimplemented byte 0x38: R91. -/
  | unimpl38
  /-- the unimplemented byte 0xCB: R91. -/
  | unimplCB
  /-- the unimplemented byte 0xD9: R91. -/
  | unimplD9
  /-- the unimplemented byte 0xDD: R91. -/
  | unimplDD
  /-- the unimplemented byte 0xED: R91. -/
  | unimplED
  /-- the unimplemented byte 0xFD: R91. -/
  | unimplFD
  deriving DecidableEq, Repr

end Sys2Proof
end

