-- ==== Sys2Proof/WellFormed.lean ====
section
/-! DEFINITION. Which instruction terms stand for an encoding: the pair fields of LDAX, STAX, PUSH and POP do not take
all four pairs (spec/30_encoding.md R83). Every other operand is in range by its type. -/

namespace Sys2Proof

/-- The four checks of R83: LDAX and STAX take only BC and DE; there is no PUSH SP and no POP SP. -/
def Instr.wellFormed : Instr → Bool
  | .ldax rp => rp = .bc || rp = .de
  | .stax rp => rp = .bc || rp = .de
  | .pushRp rp => rp ≠ .sp
  | .popRp rp => rp ≠ .sp
  | .movRR _ _ | .movRM _ | .movMR _ | .mviR _ _ | .mviM _ | .lxi _ _ | .lda _ | .sta _ | .lhld _ | .shld _
  | .xchg | .addR _ | .addM | .adi _ | .adcR _ | .adcM | .aci _ | .subR _ | .subM | .sui _ | .sbbR _ | .sbbM
  | .sbi _ | .inrR _ | .inrM | .dcrR _ | .dcrM | .inx _ | .dcx _ | .dad _ | .daa | .anaR _ | .anaM | .ani _
  | .xraR _ | .xraM | .xri _ | .oraR _ | .oraM | .ori _ | .cmpR _ | .cmpM | .cpi _ | .rlc | .rrc | .ral | .rar
  | .cma | .cmc | .stc | .jmp _ | .jcond _ _ | .call _ | .ccond _ _ | .ret | .rcond _ | .rst _ | .pchl
  | .pushPsw | .popPsw | .xthl | .sphl | .ei | .di | .hlt | .nop | .inPort _ | .outPort _ | .unimpl08
  | .unimpl10 | .unimpl18 | .unimpl20 | .unimpl28 | .unimpl30 | .unimpl38 | .unimplCB | .unimplD9 | .unimplDD
  | .unimplED | .unimplFD => true

end Sys2Proof
end

