-- ==== Sys2Proof/Decode.lean ====
section
/-! DEFINITION. The encoding tables, the decoder and the encoder of CORE (spec/30_encoding.md R80 to R93), and the byte
order of 16-bit values (R86; spec/20_memory.md R52, R54). Decoding depends on the bytes alone (R93). -/

namespace Sys2Proof

/-! ### Bytes and words -/

/-- `v[7:0]` of a 16-bit value. -/
def loByte (v : Word) : Byte := v.extractLsb' 0 8

/-- `v[15:8]` of a 16-bit value. -/
def hiByte (v : Word) : Byte := v.extractLsb' 8 8

/-- The 16-bit value with high byte `hi` and low byte `lo` (00_scope.md R6: the first of a pair is the more
significant). -/
def joinBytes (hi lo : Byte) : Word := hi ++ lo

/-! ### Field codes -/

/-- A register code (R82); code 6 names no register. -/
def Reg.ofCode (c : BitVec 3) : Option Reg :=
  match c.toNat with
  | 0 => some .b
  | 1 => some .c
  | 2 => some .d
  | 3 => some .e
  | 4 => some .h
  | 5 => some .l
  | 6 => none
  | _ => some .a

/-- The code of a register (R82). -/
def Reg.code : Reg → BitVec 3
  | .b => 0
  | .c => 1
  | .d => 2
  | .e => 3
  | .h => 4
  | .l => 5
  | .a => 7

/-- A pair code (R83). -/
def RegPair.ofCode (c : BitVec 2) : RegPair :=
  match c.toNat with
  | 0 => .bc
  | 1 => .de
  | 2 => .hl
  | _ => .sp

/-- The code of a pair (R83). -/
def RegPair.code : RegPair → BitVec 2
  | .bc => 0
  | .de => 1
  | .hl => 2
  | .sp => 3

/-- A condition code (R84). -/
def Cond.ofCode (c : BitVec 3) : Cond :=
  match c.toNat with
  | 0 => .nz
  | 1 => .z
  | 2 => .nc
  | 3 => .c
  | 4 => .po
  | 5 => .pe
  | 6 => .p
  | _ => .m

/-- The code of a condition (R84). -/
def Cond.code : Cond → BitVec 3
  | .nz => 0
  | .z => 1
  | .nc => 2
  | .c => 3
  | .po => 4
  | .pe => 5
  | .p => 6
  | .m => 7

/-! ### The decoder

R90 in prose: the quadrant is bits [7:6]; inside it `y` is bits [5:3], `z` bits [2:0], `rp` bits [5:4]. -/

/-- Quadrant 00, by `z` and then `y` or `rp`. -/
def decodeQuadrant0 (y z : BitVec 3) (rp : RegPair) (d8 : Byte) (d16 : Word) : Instr :=
  match z.toNat with
  | 0 =>
    match y.toNat with
    | 0 => .nop
    | 1 => .unimpl08
    | 2 => .unimpl10
    | 3 => .unimpl18
    | 4 => .unimpl20
    | 5 => .unimpl28
    | 6 => .unimpl30
    | _ => .unimpl38
  | 1 => if y.getLsbD 0 then .dad rp else .lxi rp d16
  | 2 =>
    match y.toNat with
    | 0 => .stax .bc
    | 1 => .ldax .bc
    | 2 => .stax .de
    | 3 => .ldax .de
    | 4 => .shld d16
    | 5 => .lhld d16
    | 6 => .sta d16
    | _ => .lda d16
  | 3 => if y.getLsbD 0 then .dcx rp else .inx rp
  | 4 => match Reg.ofCode y with
    | some r => .inrR r
    | none => .inrM
  | 5 => match Reg.ofCode y with
    | some r => .dcrR r
    | none => .dcrM
  | 6 => match Reg.ofCode y with
    | some r => .mviR r d8
    | none => .mviM d8
  | _ =>
    match y.toNat with
    | 0 => .rlc
    | 1 => .rrc
    | 2 => .ral
    | 3 => .rar
    | 4 => .daa
    | 5 => .cma
    | 6 => .stc
    | _ => .cmc

/-- Quadrant 01: MOV, with HLT in the slot of `MOV M,M`. -/
def decodeQuadrant1 (y z : BitVec 3) : Instr :=
  match Reg.ofCode y, Reg.ofCode z with
  | some dst, some src => .movRR dst src
  | some dst, none => .movRM dst
  | none, some src => .movMR src
  | none, none => .hlt

/-- Quadrant 10: the ALU operation `y` (R85) on A with register or M operand `z`. -/
def decodeQuadrant2 (y z : BitVec 3) : Instr :=
  match y.toNat, Reg.ofCode z with
  | 0, some r => .addR r
  | 0, none => .addM
  | 1, some r => .adcR r
  | 1, none => .adcM
  | 2, some r => .subR r
  | 2, none => .subM
  | 3, some r => .sbbR r
  | 3, none => .sbbM
  | 4, some r => .anaR r
  | 4, none => .anaM
  | 5, some r => .xraR r
  | 5, none => .xraM
  | 6, some r => .oraR r
  | 6, none => .oraM
  | _, some r => .cmpR r
  | _, none => .cmpM

/-- The immediate ALU operation `y` (R85). -/
def decodeImmediateAlu (y : BitVec 3) (d8 : Byte) : Instr :=
  match y.toNat with
  | 0 => .adi d8
  | 1 => .aci d8
  | 2 => .sui d8
  | 3 => .sbi d8
  | 4 => .ani d8
  | 5 => .xri d8
  | 6 => .ori d8
  | _ => .cpi d8

/-- Quadrant 11, by `z` and then `y` or `rp`. -/
def decodeQuadrant3 (y z : BitVec 3) (rp : RegPair) (d8 : Byte) (d16 : Word) : Instr :=
  match z.toNat with
  | 0 => .rcond (Cond.ofCode y)
  | 1 =>
    match y.toNat with
    | 1 => .ret
    | 3 => .unimplD9
    | 5 => .pchl
    | 6 => .popPsw
    | 7 => .sphl
    | _ => .popRp rp
  | 2 => .jcond (Cond.ofCode y) d16
  | 3 =>
    match y.toNat with
    | 0 => .jmp d16
    | 1 => .unimplCB
    | 2 => .outPort d8
    | 3 => .inPort d8
    | 4 => .xthl
    | 5 => .xchg
    | 6 => .di
    | _ => .ei
  | 4 => .ccond (Cond.ofCode y) d16
  | 5 =>
    match y.toNat with
    | 1 => .call d16
    | 3 => .unimplDD
    | 5 => .unimplED
    | 6 => .pushPsw
    | 7 => .unimplFD
    | _ => .pushRp rp
  | 6 => decodeImmediateAlu y d8
  | _ => .rst y

/-- The instruction of opcode byte `op` with the following bytes `b2` and `b3`, total on any bytes (R90, R93). The
twelve unimplemented bytes decode to their own constructors (R91). `d8` and `port` are `b2`; `d16` and `a16` are
`b3 * 256 + b2` (R86). -/
def decode (op b2 b3 : Byte) : Instr :=
  let y := op.extractLsb' 3 3
  let z := op.extractLsb' 0 3
  let rp := RegPair.ofCode (op.extractLsb' 4 2)
  let d16 := joinBytes b3 b2
  match (op.extractLsb' 6 2).toNat with
  | 0 => decodeQuadrant0 y z rp b2 d16
  | 1 => decodeQuadrant1 y z
  | 2 => decodeQuadrant2 y z
  | _ => decodeQuadrant3 y z rp b2 d16

/-- The length of the instruction that begins with `op`, by the three lists of R87. -/
def opcodeLength (op : Byte) : Nat :=
  if op ∈ ([0x01, 0x11, 0x21, 0x31, 0x22, 0x2A, 0x32, 0x3A, 0xC3,
      0xC2, 0xCA, 0xD2, 0xDA, 0xE2, 0xEA, 0xF2, 0xFA, 0xCD,
      0xC4, 0xCC, 0xD4, 0xDC, 0xE4, 0xEC, 0xF4, 0xFC] : List Byte) then 3
  else if op ∈ ([0x06, 0x0E, 0x16, 0x1E, 0x26, 0x2E, 0x36, 0x3E,
      0xC6, 0xCE, 0xD6, 0xDE, 0xE6, 0xEE, 0xF6, 0xFE, 0xD3, 0xDB] : List Byte) then 2
  else 1

/-- Why a byte list holds no instruction. -/
inductive DecodeError where
  /-- The list ends before the last byte of the instruction its first byte begins. Raised by `decodeBytes` only; a
  Step reads three bytes of an address space without end and never meets it (safe). -/
  | truncated
  deriving DecidableEq, Repr

/-- The first instruction of a byte list, and the bytes after it (R80, R87). -/
def decodeBytes : List Byte → Except DecodeError (Instr × List Byte)
  | [] => .error .truncated
  | op :: rest =>
    match opcodeLength op, rest with
    | 1, _ => .ok (decode op 0 0, rest)
    | 2, b2 :: rest' => .ok (decode op b2 0, rest')
    | 3, b2 :: b3 :: rest' => .ok (decode op b2 b3, rest')
    | _, _ => .error .truncated

/-! ### The encoder -/

/-- The opcode byte, written from the patterns of R81 and the bytes of R90. -/
def Instr.opcode : Instr → Byte
  | .movRR dst src => 0b01#2 ++ dst.code ++ src.code
  | .movRM dst => 0b01#2 ++ dst.code ++ 0b110#3
  | .movMR src => 0b01110#5 ++ src.code
  | .mviR dst _ => 0b00#2 ++ dst.code ++ 0b110#3
  | .mviM _ => 0x36
  | .lxi rp _ => 0b00#2 ++ rp.code ++ 0b0001#4
  | .lda _ => 0x3A
  | .sta _ => 0x32
  | .lhld _ => 0x2A
  | .shld _ => 0x22
  | .ldax rp => 0b00#2 ++ rp.code ++ 0b1010#4
  | .stax rp => 0b00#2 ++ rp.code ++ 0b0010#4
  | .xchg => 0xEB
  | .addR src => 0b10000#5 ++ src.code
  | .addM => 0x86
  | .adi _ => 0xC6
  | .adcR src => 0b10001#5 ++ src.code
  | .adcM => 0x8E
  | .aci _ => 0xCE
  | .subR src => 0b10010#5 ++ src.code
  | .subM => 0x96
  | .sui _ => 0xD6
  | .sbbR src => 0b10011#5 ++ src.code
  | .sbbM => 0x9E
  | .sbi _ => 0xDE
  | .inrR dst => 0b00#2 ++ dst.code ++ 0b100#3
  | .inrM => 0x34
  | .dcrR dst => 0b00#2 ++ dst.code ++ 0b101#3
  | .dcrM => 0x35
  | .inx rp => 0b00#2 ++ rp.code ++ 0b0011#4
  | .dcx rp => 0b00#2 ++ rp.code ++ 0b1011#4
  | .dad rp => 0b00#2 ++ rp.code ++ 0b1001#4
  | .daa => 0x27
  | .anaR src => 0b10100#5 ++ src.code
  | .anaM => 0xA6
  | .ani _ => 0xE6
  | .xraR src => 0b10101#5 ++ src.code
  | .xraM => 0xAE
  | .xri _ => 0xEE
  | .oraR src => 0b10110#5 ++ src.code
  | .oraM => 0xB6
  | .ori _ => 0xF6
  | .cmpR src => 0b10111#5 ++ src.code
  | .cmpM => 0xBE
  | .cpi _ => 0xFE
  | .rlc => 0x07
  | .rrc => 0x0F
  | .ral => 0x17
  | .rar => 0x1F
  | .cma => 0x2F
  | .cmc => 0x3F
  | .stc => 0x37
  | .jmp _ => 0xC3
  | .jcond ccc _ => 0b11#2 ++ ccc.code ++ 0b010#3
  | .call _ => 0xCD
  | .ccond ccc _ => 0b11#2 ++ ccc.code ++ 0b100#3
  | .ret => 0xC9
  | .rcond ccc => 0b11#2 ++ ccc.code ++ 0b000#3
  | .rst n => 0b11#2 ++ n ++ 0b111#3
  | .pchl => 0xE9
  | .pushRp rp => 0b11#2 ++ rp.code ++ 0b0101#4
  | .pushPsw => 0xF5
  | .popRp rp => 0b11#2 ++ rp.code ++ 0b0001#4
  | .popPsw => 0xF1
  | .xthl => 0xE3
  | .sphl => 0xF9
  | .ei => 0xFB
  | .di => 0xF3
  | .hlt => 0x76
  | .nop => 0x00
  | .inPort _ => 0xDB
  | .outPort _ => 0xD3
  | .unimpl08 => 0x08
  | .unimpl10 => 0x10
  | .unimpl18 => 0x18
  | .unimpl20 => 0x20
  | .unimpl28 => 0x28
  | .unimpl30 => 0x30
  | .unimpl38 => 0x38
  | .unimplCB => 0xCB
  | .unimplD9 => 0xD9
  | .unimplDD => 0xDD
  | .unimplED => 0xED
  | .unimplFD => 0xFD

/-- The operand bytes after the opcode: `d8` or `port` alone, or a 16-bit operand low byte first (R86). -/
def Instr.operandBytes : Instr → List Byte
  | .mviR _ d8 | .mviM d8 | .adi d8 | .aci d8 | .sui d8 | .sbi d8 | .ani d8 | .xri d8 | .ori d8 | .cpi d8 => [d8]
  | .inPort port | .outPort port => [port]
  | .lxi _ d16 => [loByte d16, hiByte d16]
  | .lda a16 | .sta a16 | .lhld a16 | .shld a16 | .jmp a16 | .jcond _ a16 | .call a16 | .ccond _ a16 =>
    [loByte a16, hiByte a16]
  | .movRR _ _ | .movRM _ | .movMR _ | .ldax _ | .stax _ | .xchg | .addR _ | .addM | .adcR _ | .adcM | .subR _
  | .subM | .sbbR _ | .sbbM | .inrR _ | .inrM | .dcrR _ | .dcrM | .inx _ | .dcx _ | .dad _ | .daa | .anaR _
  | .anaM | .xraR _ | .xraM | .oraR _ | .oraM | .cmpR _ | .cmpM | .rlc | .rrc | .ral | .rar | .cma | .cmc
  | .stc | .ret | .rcond _ | .rst _ | .pchl | .pushRp _ | .pushPsw | .popRp _ | .popPsw | .xthl | .sphl | .ei
  | .di | .hlt | .nop | .unimpl08 | .unimpl10 | .unimpl18 | .unimpl20 | .unimpl28 | .unimpl30 | .unimpl38
  | .unimplCB | .unimplD9 | .unimplDD | .unimplED | .unimplFD => []

/-- The bytes of an instruction in ascending address order (R80, R81, R86). -/
def encode (i : Instr) : List Byte := i.opcode :: i.operandBytes

/-! ### Words of the opcode table -/

/-- Byte `k` of a number whose bits 8k to 8k+7 are byte k. -/
def byteOfNat (w k : Nat) : Byte := BitVec.ofNat 8 (w / 2 ^ (8 * k))

/-- What the decoder reads from an instruction given as the number `w` of `nbits` bits: byte 1 is bits 7 to 0, byte 2
bits 15 to 8, byte 3 bits 23 to 16; bits from `nbits` up are 0. -/
def decodeTableWord (nbits w : Nat) : Option Instr :=
  let v := w % 2 ^ nbits
  match decodeBytes [byteOfNat v 0, byteOfNat v 1, byteOfNat v 2] with
  | .ok (i, _) => some i
  | .error _ => none

end Sys2Proof
end

