-- ==== Sys2Proof/Machine/State.lean ====
section
/-! DEFINITION. The state of CORE, field by field as spec/10_state.md R20 lists it, plus the model's own counter of
undefined bits; the stop reasons; and the state after reset (R45). -/

namespace Sys2Proof.Machine

/-- "five independent 1-bit flags" (R25): zero, sign, even parity, carry, auxiliary carry. -/
structure Flags where
  z : Bool
  s : Bool
  p : Bool
  cy : Bool
  ac : Bool
  deriving DecidableEq, Repr

/-- The four input latches, set by the host (R36). -/
structure InLatches where
  in0 : Byte
  in1 : Byte
  in2 : Byte
  in3 : Byte
  deriving DecidableEq, Repr

/-- The seven output latches, set by OUT (R37). -/
structure OutLatches where
  out0 : Byte
  out1 : Byte
  out2 : Byte
  out3 : Byte
  out4 : Byte
  out5 : Byte
  out6 : Byte
  deriving DecidableEq, Repr

/-- A pending interrupt: the vector and the instruction count at which it becomes eligible (R34). -/
structure Request where
  vector : BitVec 3
  target : Nat
  deriving DecidableEq, Repr

/-- R38. -/
inductive RunState where
  /-- Steps execute instructions. -/
  | running
  /-- HLT was executed: terminal. -/
  | halted
  /-- A fatal condition was raised: terminal. -/
  | fatal
  deriving DecidableEq, Repr

/-- The fatal conditions (60_exceptions.md R257; code 0 is "no fault", which is `State.fault = none`). -/
inductive FatalCause where
  /-- One of the twelve unimplemented opcode bytes was dispatched (R251). -/
  | unrecognizedInstruction
  /-- IN from a port of 4 or more, OUT to a port of 7 or more (R252). -/
  | portRange
  /-- LoadROM with a size of 0 or above MEM_SIZE (R255). -/
  | malformedROM
  deriving DecidableEq, Repr

/-- The triple (cause, pc, info) of 60_exceptions.md R254: `info` is the opcode byte, the port number or the image
size, as a number (log entry 13). -/
structure FaultRecord where
  cause : FatalCause
  pc : Word
  info : Nat
  deriving DecidableEq, Repr

/-- The machine (R20). `draws` is the model's own field: how many undefined bits `draw(1)` have been taken (log
entry 4). -/
structure State where
  a : Byte
  b : Byte
  c : Byte
  d : Byte
  e : Byte
  h : Byte
  l : Byte
  sp : Word
  pc : Word
  flags : Flags
  ie : Bool
  icount : Nat
  queue : List Request
  inp : InLatches
  out : OutLatches
  shift : Word
  mem : List Host.Cell
  runState : RunState
  fault : Option FaultRecord
  draws : Nat
  deriving DecidableEq, Repr

/-- Outcomes by which a Step would leave the model without a next state: there are none. The spec gives every fatal
condition a whole next state (60_exceptions.md R253) and makes a later Step a no-op (10_state.md R35), so both are next
states here (log entry 5). -/
inductive Fault where
  deriving DecidableEq, Repr

/-- Why an instruction would have no meaning here. -/
inductive Refusal where
  /-- An instruction rejected by name in `exec`: raised by no arm, since every row of the opcode table has its meaning
  (safe). -/
  | notModelled (mnemonic : String)
  deriving DecidableEq, Repr

/-- The state after `Reset` (10_state.md R45, 70_reset_and_hazards.md R290): PC is the source's, the other values are
the spec's decision D16 (log entry 2); `draws` is the model's (log entry 4, DESIGN CHOICE). Memory lists nothing: every
byte reads 0x00 (log entry 3). -/
def State.reset : State where
  a := 0
  b := 0
  c := 0
  d := 0
  e := 0
  h := 0
  l := 0
  sp := 0
  pc := config.romBase
  flags := { z := false, s := false, p := false, cy := false, ac := false }
  ie := false
  icount := 0
  queue := []
  inp := { in0 := 0, in1 := 0, in2 := 0, in3 := 0 }
  out := { out0 := 0, out1 := 0, out2 := 0, out3 := 0, out4 := 0, out5 := 0, out6 := 0 }
  shift := 0
  mem := []
  runState := .running
  fault := none
  draws := 0

end Sys2Proof.Machine
end

