-- ==== Sys2Proof/Machine/Flags.lean ====
section
/-! DEFINITION. Flag logic and the integer laws of CORE: `zsp`, `parity`, `add8`, `sub8`, `add16`, the PSW byte and the
conditions (spec/10_state.md R26 to R30, spec/41_arithmetic.md R130 to R132, spec/43_branch.md R190). -/

namespace Sys2Proof.Machine

/-- How many of the bits 7 to 0 are 1. -/
def countOnes (r : Byte) : Nat := ((List.range 8).filter r.getLsbD).length

/-- "true when the number of set bits in the result byte is even" (R27). -/
def parity (r : Byte) : Bool := countOnes r % 2 = 0

/-- The result of an 8-bit add or subtract: result, carry or borrow, auxiliary carry or nibble borrow. -/
structure AluResult where
  res : Byte
  cy : Bool
  ac : Bool
  deriving DecidableEq, Repr

/-- `add8(a, b, cin)` (R130). -/
def add8 (a b : Byte) (cin : Bool) : AluResult :=
  let t := a.toNat + b.toNat + cin.toNat
  { res := BitVec.ofNat 8 t
    cy := decide (t > 255)
    ac := decide (a.toNat % 16 + b.toNat % 16 + cin.toNat > 15) }

/-- `sub8(a, b, bin)`: CY is the borrow, AC the nibble borrow (R131, decision D7). -/
def sub8 (a b : Byte) (bin : Bool) : AluResult :=
  let t : Int := (a.toNat : Int) - b.toNat - bin.toNat
  { res := BitVec.ofInt 8 t
    cy := decide (t < 0)
    ac := decide (((a.toNat % 16 : Nat) : Int) - (b.toNat % 16 : Nat) - bin.toNat < 0) }

/-- `add16(a, b)`: the sum modulo 65536 and whether it exceeds 65535 (R132). -/
def add16 (a b : Word) : Word × Bool :=
  let t := a.toNat + b.toNat
  (BitVec.ofNat 16 t, decide (t > 65535))

/-- All five flags of an add, subtract or compare (R29). -/
def AluResult.flags (r : AluResult) : Flags :=
  { z := r.res = 0, s := r.res.msb, p := parity r.res, cy := r.cy, ac := r.ac }

/-- The flags of an increment or decrement: CY as it was (R29, R145, R147). -/
def AluResult.flagsKeepCY (r : AluResult) (f : Flags) : Flags :=
  { z := r.res = 0, s := r.res.msb, p := parity r.res, cy := f.cy, ac := r.ac }

/-- The flags of a logic operation: CY = 0 and AC as given (R29; 42_logical.md R160, R163, R166). -/
def logicFlags (r : Byte) (ac : Bool) : Flags :=
  { z := r = 0, s := r.msb, p := parity r, cy := false, ac := ac }

/-- A Bool as one bit. -/
def bit (v : Bool) : BitVec 1 := BitVec.ofBool v

/-- `psw_pack() = {S, Z, 0, AC, 0, P, 1, CY}` (R30). -/
def pswPack (f : Flags) : Byte :=
  bit f.s ++ bit f.z ++ 0b0#1 ++ bit f.ac ++ 0b0#1 ++ bit f.p ++ 0b1#1 ++ bit f.cy

/-- `psw_unpack(v)`: bits 5, 3 and 1 are ignored (R30). -/
def pswUnpack (v : Byte) : Flags :=
  { s := v.getLsbD 7, z := v.getLsbD 6, ac := v.getLsbD 4, p := v.getLsbD 2, cy := v.getLsbD 0 }

/-- `cond(ccc)` (R190). -/
def Flags.cond (f : Flags) : Cond → Bool
  | .nz => !f.z
  | .z => f.z
  | .nc => !f.cy
  | .c => f.cy
  | .po => !f.p
  | .pe => f.p
  | .p => !f.s
  | .m => f.s

end Sys2Proof.Machine
end

