-- ==== Sys2Proof/Machine/Memory.lean ====
section
/-! DEFINITION. The byte array of CORE as a list of (index, byte) pairs in one canonical form (spec/20_memory.md R50,
R51, R56, R57; spec/10_state.md R39). -/

namespace Sys2Proof.Machine

/-- What an index that is not listed reads as: 0x00, the reset value of every byte (10_state.md R45; log entry 3). -/
def memFill : Byte := 0

/-- The byte at an array index. -/
def memGet : List Host.Cell → Nat → Byte
  | [], _ => memFill
  | (j, w) :: rest, i => if i = j then w else memGet rest i

/-- The array with one byte replaced, kept canonical. -/
def memSet : List Host.Cell → Nat → Byte → List Host.Cell
  | [], i, v => if v = memFill then [] else [(i, v)]
  | (j, w) :: rest, i, v =>
    if i < j then
      if v = memFill then (j, w) :: rest else (i, v) :: (j, w) :: rest
    else if i = j then
      if v = memFill then rest else (i, v) :: rest
    else (j, w) :: memSet rest i v

/-- The bytes of `data` written at consecutive indices from `i` (LoadROM, 70_reset_and_hazards.md R292). -/
def memSetAll (m : List Host.Cell) (i : Nat) : List Byte → List Host.Cell
  | [] => m
  | v :: rest => memSetAll (memSet m i v) (i + 1) rest

/-- Indices strictly rise from `lo`, lie inside the array, and no listed byte is the fill. -/
def memWfFrom (lo : Nat) : List Host.Cell → Bool
  | [] => true
  | (i, v) :: rest => decide (lo ≤ i) && decide (i < config.memSize) && decide (v ≠ memFill) && memWfFrom (i + 1) rest

/-- The canonical form of a memory: equal arrays are equal lists. -/
def Memory.wf (m : List Host.Cell) : Bool := memWfFrom 0 m

/-- The array index an address reaches: `addr mod MEM_SIZE` (R51). -/
def memIndex (addr : Word) : Nat := addr.toNat % config.memSize

/-- `MemRead(addr, 1)` (R51). -/
def State.memRead (s : State) (addr : Word) : Byte := memGet s.mem (memIndex addr)

/-- `MemWrite(addr, 1, v)` (R51). -/
def State.memWrite (s : State) (addr : Word) (v : Byte) : State :=
  { s with mem := memSet s.mem (memIndex addr) v }

/-- `MemRead(addr, 2)`: the low byte at `addr`, the high byte at `u16(addr + 1)` (R52). -/
def State.memRead16 (s : State) (addr : Word) : Word :=
  joinBytes (s.memRead (addr + 1)) (s.memRead addr)

/-- `MemWrite(addr, 2, v)`: low byte first (R52, decision D32). -/
def State.memWrite16 (s : State) (addr : Word) (v : Word) : State :=
  (s.memWrite addr (loByte v)).memWrite (addr + 1) (hiByte v)

end Sys2Proof.Machine
end

