-- ==== Sys2Proof/Machine/Ops.lean ====
section
/-! DEFINITION. The named operations over the registers, the stack, the interrupt queue and the fatal record, each the
one place its rule of the spec is coded.

Convention (log entry 7): a meaning runs in the state AFTER the opcode fetch of 30_encoding.md R88, where PC is already
`pc0 + 1` and `icount` is already counted. -/

namespace Sys2Proof.Machine

/-! ### Registers and pairs -/

/-- `x[i]` (00_scope.md R8). -/
def State.getReg (s : State) : Reg → Byte
  | .a => s.a
  | .b => s.b
  | .c => s.c
  | .d => s.d
  | .e => s.e
  | .h => s.h
  | .l => s.l

/-- `x[i] <- v` (00_scope.md R8). -/
def State.setReg (s : State) (r : Reg) (v : Byte) : State :=
  match r with
  | .a => { s with a := v }
  | .b => { s with b := v }
  | .c => { s with c := v }
  | .d => { s with d := v }
  | .e => { s with e := v }
  | .h => { s with h := v }
  | .l => { s with l := v }

/-- `rp16(j)`: the first-named register is the high byte (10_state.md R22; 30_encoding.md R83). -/
def State.getPair (s : State) : RegPair → Word
  | .bc => joinBytes s.b s.c
  | .de => joinBytes s.d s.e
  | .hl => joinBytes s.h s.l
  | .sp => s.sp

/-- `rp16(j) <- v`: writing a pair writes both halves (10_state.md R22). -/
def State.setPair (s : State) (rp : RegPair) (v : Word) : State :=
  match rp with
  | .bc => { s with b := hiByte v, c := loByte v }
  | .de => { s with d := hiByte v, e := loByte v }
  | .hl => { s with h := hiByte v, l := loByte v }
  | .sp => { s with sp := v }

/-- The memory pointer HL (10_state.md R22). -/
def State.hl (s : State) : Word := s.getPair .hl

/-! ### The program counter -/

/-- `pc0`, the address the opcode was fetched from, in a state after the fetch (00_scope.md R9). -/
def State.pc0 (s : State) : Word := s.pc - 1

/-- "PC is advanced an additional 1 or 2 after the operation completes, matching instruction length"
(30_encoding.md R89 (a)). -/
def State.advance (s : State) (n : Word) : State := { s with pc := s.pc + n }

/-- `PC <- target`. -/
def State.jump (s : State) (target : Word) : State := { s with pc := target }

/-! ### The stack -/

/-- `push16(v)` (44_stack_control.md R210). -/
def State.push16 (s : State) (v : Word) : State :=
  ({ s with sp := s.sp - 2 }).memWrite16 (s.sp - 2) v

/-- The value `pop16()` returns (44_stack_control.md R211). -/
def State.top16 (s : State) : Word := s.memRead16 s.sp

/-- What `pop16()` does to SP (44_stack_control.md R211). -/
def State.dropTop (s : State) : State := { s with sp := s.sp + 2 }

/-! ### Fatal conditions -/

/-- `raise <Fatal>(info)` (60_exceptions.md R253, R254): the run stops, the record says where and what; PC and `icount`
stay as the fetch left them; no handler runs and nothing is pushed. -/
def State.raise (s : State) (cause : FatalCause) (info : Nat) : State :=
  { s with runState := .fatal, fault := some { cause := cause, pc := s.pc0, info := info } }

/-- UnrecognizedInstruction for opcode byte `op` (60_exceptions.md R251). -/
def State.raiseUnrecognized (s : State) (op : Byte) : State := s.raise .unrecognizedInstruction op.toNat

/-- PortRange for port `p` (60_exceptions.md R252). -/
def State.raisePortRange (s : State) (p : Byte) : State := s.raise .portRange p.toNat

/-- The numeric cause code (60_exceptions.md R257). -/
def causeCode : Option FaultRecord → Nat
  | none => 0
  | some r =>
    match r.cause with
    | .unrecognizedInstruction => 1
    | .portRange => 2
    | .malformedROM => 3

/-! ### Interrupts -/

/-- `QueueInterrupt(vector, delay)` for a vector of 0 to 7: appended if IE is 1, lost if it is 0
(60_exceptions.md R258). -/
def State.queueInterrupt (s : State) (vector : BitVec 3) (delay : Nat) : State :=
  if s.ie then { s with queue := s.queue ++ [{ vector := vector, target := s.icount + delay }] } else s

/-- The entry address of a vector, `VECTOR_STRIDE * vector` (60_exceptions.md R264). -/
def vectorAddress (cfg : Config) (v : BitVec 3) : Word := BitVec.ofNat 16 (cfg.vectorStride * v.toNat)

/-- The request a Step would enter: the head of the queue, if IE is 1 and its target is reached
(60_exceptions.md R261). -/
def State.dueRequest (s : State) : Option Request :=
  match s.queue with
  | [] => none
  | r :: _ => if s.ie && decide (r.target ≤ s.icount) then some r else none

/-- The interrupt entry sequence for a vector: the head leaves the queue, PC is pushed, PC is the vector's address, and
IE is cleared only if the parameter says so (60_exceptions.md R262, decision D13). -/
def State.enterInterrupt (cfg : Config) (s : State) (v : BitVec 3) : State :=
  let s1 := ({ s with queue := s.queue.tail }).push16 s.pc
  { s1 with pc := vectorAddress cfg v, ie := s.ie && !cfg.intEntryClearsIE }

/-- Phase 1 of a Step: the interrupt check and, if a request is due, its entry (30_encoding.md R88). -/
def State.serviceInterrupt (cfg : Config) (s : State) : State :=
  match s.dueRequest with
  | none => s
  | some r => s.enterInterrupt cfg r.vector

/-- The return from a subroutine or a handler: `PC <- pop16()`; nothing else is restored and IE is not touched
(43_branch.md R195; 60_exceptions.md R266). -/
def State.returnFromStack (s : State) : State := s.dropTop.jump s.top16

/-! ### Fetch -/

/-- The instruction whose bytes begin at an address: three byte reads, all before any store of the instruction
(30_encoding.md R88; log entry 11). -/
def State.instrAt (s : State) (addr : Word) : Instr :=
  decode (s.memRead addr) (s.memRead (addr + 1)) (s.memRead (addr + 2))

/-- Phase 2 of a Step, its change of state: PC past the opcode byte, one more instruction counted
(30_encoding.md R88; 10_state.md R33). -/
def State.afterFetch (s : State) : State := { s with pc := s.pc + 1, icount := s.icount + 1 }

/-! ### Undefined bits -/

/-- `draw(1)`: the next undefined bit (00_scope.md R8; log entry 4). -/
def State.drawnBit (s : State) : Bool := freeBit s.draws

/-- The state after one `draw(1)`: the next draw is a fresh one. -/
def State.afterDraw (s : State) : State := { s with draws := s.draws + 1 }

end Sys2Proof.Machine
end

