-- ==== Sys2Proof/Machine/Operands.lean ====
section
/-! DEFINITION. The operand forms of CORE (spec/40_data_transfer.md R110), the ALU operations on A they share
(spec/41_arithmetic.md, spec/42_logical.md) and the port multiplexer (spec/45_io_ports.md R231 to R233). -/

namespace Sys2Proof.Machine

/-- The operand M: the byte at address HL (R110 (c)). -/
def State.memOperand (s : State) : Byte := s.memRead s.hl

/-- A store to M. -/
def State.setMemOperand (s : State) (v : Byte) : State := s.memWrite s.hl v

/-! ### ALU operations on A with second operand `v` -/

/-- `add8(A, v, cin)`: result to A, five flags (R133, R136). -/
def State.addToA (s : State) (v : Byte) (cin : Bool) : State :=
  { s with a := (add8 s.a v cin).res, flags := (add8 s.a v cin).flags }

/-- `sub8(A, v, bin)`: result to A, five flags (R139, R142). -/
def State.subFromA (s : State) (v : Byte) (bin : Bool) : State :=
  { s with a := (sub8 s.a v bin).res, flags := (sub8 s.a v bin).flags }

/-- `sub8(A, v, 0)` for the flags only (R169). -/
def State.compareA (s : State) (v : Byte) : State :=
  { s with flags := (sub8 s.a v false).flags }

/-- And: CY = 0, AC an undefined bit (R160, decision D9). -/
def State.andA (s : State) (v : Byte) : State :=
  { s with a := s.a &&& v, flags := logicFlags (s.a &&& v) s.drawnBit }.afterDraw

/-- Exclusive or: CY = 0, AC = 0 (R163, decision D9). -/
def State.xorA (s : State) (v : Byte) : State :=
  { s with a := s.a ^^^ v, flags := logicFlags (s.a ^^^ v) false }

/-- Or: CY = 0, AC an undefined bit (R166, decision D9). -/
def State.orA (s : State) (v : Byte) : State :=
  { s with a := s.a ||| v, flags := logicFlags (s.a ||| v) s.drawnBit }.afterDraw

/-- A rotate's result: A and CY written, the other flags as they were (R172 to R175). -/
def State.setRotated (s : State) (v : Byte) (cy : Bool) : State :=
  { s with a := v, flags := { s.flags with cy := cy } }

/-- The correction DAA adds to A (R152): 0x06 for the low digit, 0x60 for the high digit. -/
def daaCorrection (a : Byte) (f : Flags) : Byte :=
  let lo := a.toNat % 16
  let hi := a.toNat / 16
  (if f.ac || decide (lo > 9) then 0x06 else 0x00)
    + (if f.cy || decide (hi > 9) || (decide (hi ≥ 9) && decide (lo > 9)) then 0x60 else 0x00)

/-- Whether DAA leaves CY set (R152): it was set, or 0x60 is added. -/
def daaCarry (a : Byte) (f : Flags) : Bool :=
  f.cy || decide (a.toNat / 16 > 9) || (decide (a.toNat / 16 ≥ 9) && decide (a.toNat % 16 > 9))

/-! ### Conditional control transfer -/

/-- Push a return address and jump (R193). -/
def State.callTo (s : State) (ret target : Word) : State := (s.push16 ret).jump target

/-! ### The port multiplexer -/

/-- The 8-bit window of the shift register at the offset in `out[2][2:0]` (45_io_ports.md R232). -/
def State.shiftWindow (s : State) : Byte :=
  BitVec.ofNat 8 (s.shift.toNat >>> (8 - s.out.out2.toNat % 8))

/-- `PortRead(p)`; `none` where the rule raises PortRange (45_io_ports.md R231, R232). -/
def State.portRead (s : State) (p : Byte) : Option Byte :=
  if p = 0 then some s.inp.in0
  else if p = 1 then some s.inp.in1
  else if p = 2 then some s.inp.in2
  else if p = config.portShiftRead then some s.shiftWindow
  else none

/-- The shift-register load: the old high byte moves down, `v` becomes the high byte (45_io_ports.md R233). -/
def State.loadShift (s : State) (v : Byte) : State := { s with shift := joinBytes v (hiByte s.shift) }

/-- `PortWrite(p, v)`; `none` where the rule raises PortRange (45_io_ports.md R231, R233). `out[4]` is never written
(decision D18). -/
def State.portWrite (s : State) (p v : Byte) : Option State :=
  if p = config.portShiftData then some (s.loadShift v)
  else if p = 0 then some { s with out := { s.out with out0 := v } }
  else if p = 1 then some { s with out := { s.out with out1 := v } }
  else if p = config.portShiftAmount then some { s with out := { s.out with out2 := v } }
  else if p = 3 then some { s with out := { s.out with out3 := v } }
  else if p = 5 then some { s with out := { s.out with out5 := v } }
  else if p = 6 then some { s with out := { s.out with out6 := v } }
  else none

end Sys2Proof.Machine
end

