-- ==== Sys2Proof/Machine/Arithmetic.lean ====
section
/-! DEFINITION. Arithmetic instructions (spec/41_arithmetic.md R133 to R152). None can raise a fatal condition. -/

namespace Sys2Proof.Machine

/-- `add8(A, v, 0)` with `v = x[sss]` (R133). -/
def execAddR (src : Reg) (s : State) : Host.Outcome State Fault Refusal :=
  .next (s.addToA (s.getReg src) false)

/-- `add8(A, v, 0)` with `v = MemRead(HL, 1)` (R134). -/
def execAddM (s : State) : Host.Outcome State Fault Refusal :=
  .next (s.addToA s.memOperand false)

/-- `add8(A, v, 0)` with `v = d8` (R135). -/
def execAdi (d8 : Byte) (s : State) : Host.Outcome State Fault Refusal :=
  .next ((s.addToA d8 false).advance 1)

/-- `add8(A, v, CY)` with `v = x[sss]` (R136). -/
def execAdcR (src : Reg) (s : State) : Host.Outcome State Fault Refusal :=
  .next (s.addToA (s.getReg src) s.flags.cy)

/-- `add8(A, v, CY)` with `v = MemRead(HL, 1)` (R137). -/
def execAdcM (s : State) : Host.Outcome State Fault Refusal :=
  .next (s.addToA s.memOperand s.flags.cy)

/-- `add8(A, v, CY)` with `v = d8` (R138). -/
def execAci (d8 : Byte) (s : State) : Host.Outcome State Fault Refusal :=
  .next ((s.addToA d8 s.flags.cy).advance 1)

/-- `sub8(A, v, 0)` with `v = x[sss]` (R139). -/
def execSubR (src : Reg) (s : State) : Host.Outcome State Fault Refusal :=
  .next (s.subFromA (s.getReg src) false)

/-- `sub8(A, v, 0)` with `v = MemRead(HL, 1)` (R140). -/
def execSubM (s : State) : Host.Outcome State Fault Refusal :=
  .next (s.subFromA s.memOperand false)

/-- `sub8(A, v, 0)` with `v = d8` (R141). -/
def execSui (d8 : Byte) (s : State) : Host.Outcome State Fault Refusal :=
  .next ((s.subFromA d8 false).advance 1)

/-- `sub8(A, v, CY)` with `v = x[sss]` (R142). -/
def execSbbR (src : Reg) (s : State) : Host.Outcome State Fault Refusal :=
  .next (s.subFromA (s.getReg src) s.flags.cy)

/-- `sub8(A, v, CY)` with `v = MemRead(HL, 1)` (R143). -/
def execSbbM (s : State) : Host.Outcome State Fault Refusal :=
  .next (s.subFromA s.memOperand s.flags.cy)

/-- `sub8(A, v, CY)` with `v = d8` (R144). -/
def execSbi (d8 : Byte) (s : State) : Host.Outcome State Fault Refusal :=
  .next ((s.subFromA d8 s.flags.cy).advance 1)

/-- `add8(x[ddd], 1, 0)` back to the register, CY kept (R145). -/
def execInrR (dst : Reg) (s : State) : Host.Outcome State Fault Refusal :=
  let r := add8 (s.getReg dst) 1 false
  .next { s.setReg dst r.res with flags := r.flagsKeepCY s.flags }

/-- `add8(MemRead(HL, 1), 1, 0)` back to memory, CY kept (R146). -/
def execInrM (s : State) : Host.Outcome State Fault Refusal :=
  let r := add8 s.memOperand 1 false
  .next { s.setMemOperand r.res with flags := r.flagsKeepCY s.flags }

/-- `sub8(x[ddd], 1, 0)` back to the register, CY kept (R147). -/
def execDcrR (dst : Reg) (s : State) : Host.Outcome State Fault Refusal :=
  let r := sub8 (s.getReg dst) 1 false
  .next { s.setReg dst r.res with flags := r.flagsKeepCY s.flags }

/-- `sub8(MemRead(HL, 1), 1, 0)` back to memory, CY kept (R148). -/
def execDcrM (s : State) : Host.Outcome State Fault Refusal :=
  let r := sub8 s.memOperand 1 false
  .next { s.setMemOperand r.res with flags := r.flagsKeepCY s.flags }

/-- `u16(rp16(rp) + 1)` back to the pair, no flag (R149). -/
def execInx (rp : RegPair) (s : State) : Host.Outcome State Fault Refusal :=
  .next (s.setPair rp (s.getPair rp + 1))

/-- `u16(rp16(rp) - 1)` back to the pair, no flag (R150). -/
def execDcx (rp : RegPair) (s : State) : Host.Outcome State Fault Refusal :=
  .next (s.setPair rp (s.getPair rp - 1))

/-- `add16(HL, rp16(rp))` to HL, CY only (R151). -/
def execDad (rp : RegPair) (s : State) : Host.Outcome State Fault Refusal :=
  let r := add16 s.hl (s.getPair rp)
  .next { s.setPair .hl r.1 with flags := { s.flags with cy := r.2 } }

/-- Decimal adjust of A (R152): CY is never cleared, AC is the carry out of bit 3 of the correction. -/
def execDaa (s : State) : Host.Outcome State Fault Refusal :=
  let r := add8 s.a (daaCorrection s.a s.flags) false
  .next { s with a := r.res, flags := { r.flags with cy := daaCarry s.a s.flags } }

end Sys2Proof.Machine
end

