-- ==== Sys2Proof/Machine/Branch.lean ====
section
/-! DEFINITION. Control transfer instructions (spec/43_branch.md R190 to R198). PC is `pc0 + 1` when a meaning runs, so the address of
the next instruction is PC plus the operand bytes (spec/30_encoding.md R89). None writes a flag. -/

namespace Sys2Proof.Machine

/-- `PC <- a16` (R191). -/
def execJmp (a16 : Word) (s : State) : Host.Outcome State Fault Refusal :=
  .next (s.jump a16)

/-- Jump if the condition holds, else go on (R192). -/
def execJcond (ccc : Cond) (a16 : Word) (s : State) : Host.Outcome State Fault Refusal :=
  .next (if s.flags.cond ccc then s.jump a16 else s.advance 2)

/-- `push16(u16(pc0 + 3)); PC <- a16` (R193). -/
def execCall (a16 : Word) (s : State) : Host.Outcome State Fault Refusal :=
  .next (s.callTo (s.pc + 2) a16)

/-- Call if the condition holds, else go on (R194). -/
def execCcond (ccc : Cond) (a16 : Word) (s : State) : Host.Outcome State Fault Refusal :=
  .next (if s.flags.cond ccc then s.callTo (s.pc + 2) a16 else s.advance 2)

/-- `PC <- pop16()` (R195). -/
def execRet (s : State) : Host.Outcome State Fault Refusal :=
  .next s.returnFromStack

/-- Return if the condition holds, else go on (R196). -/
def execRcond (ccc : Cond) (s : State) : Host.Outcome State Fault Refusal :=
  .next (if s.flags.cond ccc then s.returnFromStack else s)

/-- `QueueInterrupt(n, RST_DELAY)`: nothing is pushed and PC is not redirected in this Step (R197, decision D12). -/
def execRst (n : BitVec 3) (s : State) : Host.Outcome State Fault Refusal :=
  .next (s.queueInterrupt n config.rstDelay)

/-- `PC <- HL` (R198). -/
def execPchl (s : State) : Host.Outcome State Fault Refusal :=
  .next (s.jump s.hl)

end Sys2Proof.Machine
end

