-- ==== Sys2Proof/Machine/DataTransfer.lean ====
section
/-! DEFINITION. Data transfer instructions (spec/40_data_transfer.md R111 to R123). None writes a flag or can raise a fatal
condition. PC is past the opcode byte already; operand bytes are passed by `advance`. -/

namespace Sys2Proof.Machine

/-- `x[ddd] <- x[sss]` (R111). -/
def execMovRR (dst src : Reg) (s : State) : Host.Outcome State Fault Refusal :=
  .next (s.setReg dst (s.getReg src))

/-- `x[ddd] <- MemRead(HL, 1)`, HL as it was before (R112). -/
def execMovRM (dst : Reg) (s : State) : Host.Outcome State Fault Refusal :=
  .next (s.setReg dst s.memOperand)

/-- `MemWrite(HL, 1, x[sss])` (R113). -/
def execMovMR (src : Reg) (s : State) : Host.Outcome State Fault Refusal :=
  .next (s.setMemOperand (s.getReg src))

/-- `x[ddd] <- d8` (R114). -/
def execMviR (dst : Reg) (d8 : Byte) (s : State) : Host.Outcome State Fault Refusal :=
  .next ((s.setReg dst d8).advance 1)

/-- `MemWrite(HL, 1, d8)` (R115). -/
def execMviM (d8 : Byte) (s : State) : Host.Outcome State Fault Refusal :=
  .next ((s.setMemOperand d8).advance 1)

/-- The pair, or SP, takes `d16` (R116). -/
def execLxi (rp : RegPair) (d16 : Word) (s : State) : Host.Outcome State Fault Refusal :=
  .next ((s.setPair rp d16).advance 2)

/-- `A <- MemRead(a16, 1)` (R117). -/
def execLda (a16 : Word) (s : State) : Host.Outcome State Fault Refusal :=
  .next ({ s with a := s.memRead a16 }.advance 2)

/-- `MemWrite(a16, 1, A)` (R118). -/
def execSta (a16 : Word) (s : State) : Host.Outcome State Fault Refusal :=
  .next ((s.memWrite a16 s.a).advance 2)

/-- `HL <- MemRead(a16, 2)` (R119). -/
def execLhld (a16 : Word) (s : State) : Host.Outcome State Fault Refusal :=
  .next ((s.setPair .hl (s.memRead16 a16)).advance 2)

/-- `MemWrite(a16, 2, HL)` (R120). -/
def execShld (a16 : Word) (s : State) : Host.Outcome State Fault Refusal :=
  .next ((s.memWrite16 a16 s.hl).advance 2)

/-- `A <- MemRead(BC or DE, 1)` (R121). -/
def execLdax (rp : RegPair) (s : State) : Host.Outcome State Fault Refusal :=
  .next { s with a := s.memRead (s.getPair rp) }

/-- `MemWrite(BC or DE, 1, A)` (R122). -/
def execStax (rp : RegPair) (s : State) : Host.Outcome State Fault Refusal :=
  .next (s.memWrite (s.getPair rp) s.a)

/-- `(D, E, H, L) <- (H, L, D, E)` (R123). -/
def execXchg (s : State) : Host.Outcome State Fault Refusal :=
  .next { s with d := s.h, e := s.l, h := s.d, l := s.e }

end Sys2Proof.Machine
end

