-- ==== Sys2Proof/Machine/IoPorts.lean ====
section
/-! DEFINITION. IN and OUT (spec/45_io_ports.md R234, R235). A port outside the bank takes the fatal condition PortRange, which is a
next state (spec/60_exceptions.md R252, R253; decision D17). -/

namespace Sys2Proof.Machine

/-- `A <- PortRead(port)`, or PortRange for a port of 4 or more (R234). -/
def execIn (port : Byte) (s : State) : Host.Outcome State Fault Refusal :=
  match s.portRead port with
  | some v => .next ({ s with a := v }.advance 1)
  | none => .next (s.raisePortRange port)

/-- `PortWrite(port, A)`, or PortRange for a port of 7 or more (R235). -/
def execOut (port : Byte) (s : State) : Host.Outcome State Fault Refusal :=
  match s.portWrite port s.a with
  | some t => .next (t.advance 1)
  | none => .next (s.raisePortRange port)

end Sys2Proof.Machine
end

