-- ==== Sys2Proof/Machine/Logical.lean ====
section
/-! DEFINITION. Logical, compare, rotate and carry instructions (spec/42_logical.md R160 to R178). None can raise a fatal
condition; AC after ANA, ANI, ORA and ORI is a free value (log entry 4). -/

namespace Sys2Proof.Machine

/-- A and v, `v = x[sss]` (R160). -/
def execAnaR (src : Reg) (s : State) : Host.Outcome State Fault Refusal :=
  .next (s.andA (s.getReg src))

/-- A and v, `v = MemRead(HL, 1)` (R161). -/
def execAnaM (s : State) : Host.Outcome State Fault Refusal :=
  .next (s.andA s.memOperand)

/-- A and v, `v = d8` (R162). -/
def execAni (d8 : Byte) (s : State) : Host.Outcome State Fault Refusal :=
  .next ((s.andA d8).advance 1)

/-- A exclusive-or v, `v = x[sss]` (R163). -/
def execXraR (src : Reg) (s : State) : Host.Outcome State Fault Refusal :=
  .next (s.xorA (s.getReg src))

/-- A exclusive-or v, `v = MemRead(HL, 1)` (R164). -/
def execXraM (s : State) : Host.Outcome State Fault Refusal :=
  .next (s.xorA s.memOperand)

/-- A exclusive-or v, `v = d8` (R165). -/
def execXri (d8 : Byte) (s : State) : Host.Outcome State Fault Refusal :=
  .next ((s.xorA d8).advance 1)

/-- A or v, `v = x[sss]` (R166). -/
def execOraR (src : Reg) (s : State) : Host.Outcome State Fault Refusal :=
  .next (s.orA (s.getReg src))

/-- A or v, `v = MemRead(HL, 1)` (R167). -/
def execOraM (s : State) : Host.Outcome State Fault Refusal :=
  .next (s.orA s.memOperand)

/-- A or v, `v = d8` (R168). -/
def execOri (d8 : Byte) (s : State) : Host.Outcome State Fault Refusal :=
  .next ((s.orA d8).advance 1)

/-- Compare A with v, `v = x[sss]` (R169). -/
def execCmpR (src : Reg) (s : State) : Host.Outcome State Fault Refusal :=
  .next (s.compareA (s.getReg src))

/-- Compare A with v, `v = MemRead(HL, 1)` (R170). -/
def execCmpM (s : State) : Host.Outcome State Fault Refusal :=
  .next (s.compareA s.memOperand)

/-- Compare A with v, `v = d8` (R171). -/
def execCpi (d8 : Byte) (s : State) : Host.Outcome State Fault Refusal :=
  .next ((s.compareA d8).advance 1)

/-- `A <- {A[6:0], A[7]}; CY <- A[7]` (R172). -/
def execRlc (s : State) : Host.Outcome State Fault Refusal :=
  .next (s.setRotated (s.a.extractLsb' 0 7 ++ bit s.a.msb) s.a.msb)

/-- `A <- {A[0], A[7:1]}; CY <- A[0]` (R173). -/
def execRrc (s : State) : Host.Outcome State Fault Refusal :=
  .next (s.setRotated (bit (s.a.getLsbD 0) ++ s.a.extractLsb' 1 7) (s.a.getLsbD 0))

/-- `{CY, A} <- {A[7], A[6:0], CY}` (R174). -/
def execRal (s : State) : Host.Outcome State Fault Refusal :=
  .next (s.setRotated (s.a.extractLsb' 0 7 ++ bit s.flags.cy) s.a.msb)

/-- `{A, CY} <- {CY, A[7:1], A[0]}` (R175). -/
def execRar (s : State) : Host.Outcome State Fault Refusal :=
  .next (s.setRotated (bit s.flags.cy ++ s.a.extractLsb' 1 7) (s.a.getLsbD 0))

/-- `A <- 255 - A`, no flag (R176). -/
def execCma (s : State) : Host.Outcome State Fault Refusal :=
  .next { s with a := ~~~s.a }

/-- `CY <- 1 - CY` (R177). -/
def execCmc (s : State) : Host.Outcome State Fault Refusal :=
  .next { s with flags := { s.flags with cy := !s.flags.cy } }

/-- `CY <- 1` (R178). -/
def execStc (s : State) : Host.Outcome State Fault Refusal :=
  .next { s with flags := { s.flags with cy := true } }

end Sys2Proof.Machine
end

