-- ==== Sys2Proof/Machine/StackControl.lean ====
section
/-! DEFINITION. Stack and machine control instructions (spec/44_stack_control.md R212 to R221). -/

namespace Sys2Proof.Machine

/-- `push16(rp16(j))` (R212). -/
def execPushRp (rp : RegPair) (s : State) : Host.Outcome State Fault Refusal :=
  .next (s.push16 (s.getPair rp))

/-- `push16({A, psw_pack()})` (R213). -/
def execPushPsw (s : State) : Host.Outcome State Fault Refusal :=
  .next (s.push16 (joinBytes s.a (pswPack s.flags)))

/-- `rp16(j) <- pop16()` (R214). -/
def execPopRp (rp : RegPair) (s : State) : Host.Outcome State Fault Refusal :=
  .next (s.dropTop.setPair rp s.top16)

/-- `v <- pop16(); psw_unpack(v[7:0]); A <- v[15:8]` (R215). -/
def execPopPsw (s : State) : Host.Outcome State Fault Refusal :=
  .next { s.dropTop with a := hiByte s.top16, flags := pswUnpack (loByte s.top16) }

/-- HL and the top of the stack change places, both reads before both writes (R216). -/
def execXthl (s : State) : Host.Outcome State Fault Refusal :=
  .next ((s.memWrite16 s.sp s.hl).setPair .hl s.top16)

/-- `SP <- HL` (R217). -/
def execSphl (s : State) : Host.Outcome State Fault Refusal :=
  .next { s with sp := s.hl }

/-- `IE <- 1`, seen by the very next check (R218, decision D14). -/
def execEi (s : State) : Host.Outcome State Fault Refusal :=
  .next { s with ie := true }

/-- `IE <- 0`; the queue is kept (R219, decision D15). -/
def execDi (s : State) : Host.Outcome State Fault Refusal :=
  .next { s with ie := false }

/-- `run_state <- Halted`; no fault (R220, decision D11). -/
def execHlt (s : State) : Host.Outcome State Fault Refusal :=
  .next { s with runState := .halted }

/-- Nothing beyond the fetch (R221). -/
def execNop (s : State) : Host.Outcome State Fault Refusal :=
  .next s

end Sys2Proof.Machine
end

