-- ==== Sys2Proof/Machine/Unimplemented.lean ====
section
/-! DEFINITION. The twelve unimplemented opcode bytes (spec/30_encoding.md R91): each takes the fatal condition
UnrecognizedInstruction, which is a next state (spec/60_exceptions.md R251, R253; log entry 5). -/

namespace Sys2Proof.Machine

/-- The byte 0x08 (R91, R251). -/
def execUnimpl08 (s : State) : Host.Outcome State Fault Refusal :=
  .next (s.raiseUnrecognized 0x08)

/-- The byte 0x10 (R91, R251). -/
def execUnimpl10 (s : State) : Host.Outcome State Fault Refusal :=
  .next (s.raiseUnrecognized 0x10)

/-- The byte 0x18 (R91, R251). -/
def execUnimpl18 (s : State) : Host.Outcome State Fault Refusal :=
  .next (s.raiseUnrecognized 0x18)

/-- The byte 0x20 (R91, R251). -/
def execUnimpl20 (s : State) : Host.Outcome State Fault Refusal :=
  .next (s.raiseUnrecognized 0x20)

/-- The byte 0x28 (R91, R251). -/
def execUnimpl28 (s : State) : Host.Outcome State Fault Refusal :=
  .next (s.raiseUnrecognized 0x28)

/-- The byte 0x30 (R91, R251). -/
def execUnimpl30 (s : State) : Host.Outcome State Fault Refusal :=
  .next (s.raiseUnrecognized 0x30)

/-- The byte 0x38 (R91, R251). -/
def execUnimpl38 (s : State) : Host.Outcome State Fault Refusal :=
  .next (s.raiseUnrecognized 0x38)

/-- The byte 0xCB (R91, R251). -/
def execUnimplCB (s : State) : Host.Outcome State Fault Refusal :=
  .next (s.raiseUnrecognized 0xCB)

/-- The byte 0xD9 (R91, R251). -/
def execUnimplD9 (s : State) : Host.Outcome State Fault Refusal :=
  .next (s.raiseUnrecognized 0xD9)

/-- The byte 0xDD (R91, R251). -/
def execUnimplDD (s : State) : Host.Outcome State Fault Refusal :=
  .next (s.raiseUnrecognized 0xDD)

/-- The byte 0xED (R91, R251). -/
def execUnimplED (s : State) : Host.Outcome State Fault Refusal :=
  .next (s.raiseUnrecognized 0xED)

/-- The byte 0xFD (R91, R251). -/
def execUnimplFD (s : State) : Host.Outcome State Fault Refusal :=
  .next (s.raiseUnrecognized 0xFD)

end Sys2Proof.Machine
end

