-- ==== Sys2Proof/Machine/Dispatch.lean ====
section
/-! DEFINITION. Which meaning each instruction has: one arm per constructor (spec/30_encoding.md R88, phase 3). -/

namespace Sys2Proof.Machine

def exec (i : Instr) (s : State) : Host.Outcome State Fault Refusal :=
  match i with
  | .movRR dst src => Sys2Proof.Machine.execMovRR dst src s
  | .movRM dst => Sys2Proof.Machine.execMovRM dst s
  | .movMR src => Sys2Proof.Machine.execMovMR src s
  | .mviR dst d8 => Sys2Proof.Machine.execMviR dst d8 s
  | .mviM d8 => Sys2Proof.Machine.execMviM d8 s
  | .lxi rp d16 => Sys2Proof.Machine.execLxi rp d16 s
  | .lda a16 => Sys2Proof.Machine.execLda a16 s
  | .sta a16 => Sys2Proof.Machine.execSta a16 s
  | .lhld a16 => Sys2Proof.Machine.execLhld a16 s
  | .shld a16 => Sys2Proof.Machine.execShld a16 s
  | .ldax rp => Sys2Proof.Machine.execLdax rp s
  | .stax rp => Sys2Proof.Machine.execStax rp s
  | .xchg => Sys2Proof.Machine.execXchg s
  | .addR src => Sys2Proof.Machine.execAddR src s
  | .addM => Sys2Proof.Machine.execAddM s
  | .adi d8 => Sys2Proof.Machine.execAdi d8 s
  | .adcR src => Sys2Proof.Machine.execAdcR src s
  | .adcM => Sys2Proof.Machine.execAdcM s
  | .aci d8 => Sys2Proof.Machine.execAci d8 s
  | .subR src => Sys2Proof.Machine.execSubR src s
  | .subM => Sys2Proof.Machine.execSubM s
  | .sui d8 => Sys2Proof.Machine.execSui d8 s
  | .sbbR src => Sys2Proof.Machine.execSbbR src s
  | .sbbM => Sys2Proof.Machine.execSbbM s
  | .sbi d8 => Sys2Proof.Machine.execSbi d8 s
  | .inrR dst => Sys2Proof.Machine.execInrR dst s
  | .inrM => Sys2Proof.Machine.execInrM s
  | .dcrR dst => Sys2Proof.Machine.execDcrR dst s
  | .dcrM => Sys2Proof.Machine.execDcrM s
  | .inx rp => Sys2Proof.Machine.execInx rp s
  | .dcx rp => Sys2Proof.Machine.execDcx rp s
  | .dad rp => Sys2Proof.Machine.execDad rp s
  | .daa => Sys2Proof.Machine.execDaa s
  | .anaR src => Sys2Proof.Machine.execAnaR src s
  | .anaM => Sys2Proof.Machine.execAnaM s
  | .ani d8 => Sys2Proof.Machine.execAni d8 s
  | .xraR src => Sys2Proof.Machine.execXraR src s
  | .xraM => Sys2Proof.Machine.execXraM s
  | .xri d8 => Sys2Proof.Machine.execXri d8 s
  | .oraR src => Sys2Proof.Machine.execOraR src s
  | .oraM => Sys2Proof.Machine.execOraM s
  | .ori d8 => Sys2Proof.Machine.execOri d8 s
  | .cmpR src => Sys2Proof.Machine.execCmpR src s
  | .cmpM => Sys2Proof.Machine.execCmpM s
  | .cpi d8 => Sys2Proof.Machine.execCpi d8 s
  | .rlc => Sys2Proof.Machine.execRlc s
  | .rrc => Sys2Proof.Machine.execRrc s
  | .ral => Sys2Proof.Machine.execRal s
  | .rar => Sys2Proof.Machine.execRar s
  | .cma => Sys2Proof.Machine.execCma s
  | .cmc => Sys2Proof.Machine.execCmc s
  | .stc => Sys2Proof.Machine.execStc s
  | .jmp a16 => Sys2Proof.Machine.execJmp a16 s
  | .jcond ccc a16 => Sys2Proof.Machine.execJcond ccc a16 s
  | .call a16 => Sys2Proof.Machine.execCall a16 s
  | .ccond ccc a16 => Sys2Proof.Machine.execCcond ccc a16 s
  | .ret => Sys2Proof.Machine.execRet s
  | .rcond ccc => Sys2Proof.Machine.execRcond ccc s
  | .rst n => Sys2Proof.Machine.execRst n s
  | .pchl => Sys2Proof.Machine.execPchl s
  | .pushRp rp => Sys2Proof.Machine.execPushRp rp s
  | .pushPsw => Sys2Proof.Machine.execPushPsw s
  | .popRp rp => Sys2Proof.Machine.execPopRp rp s
  | .popPsw => Sys2Proof.Machine.execPopPsw s
  | .xthl => Sys2Proof.Machine.execXthl s
  | .sphl => Sys2Proof.Machine.execSphl s
  | .ei => Sys2Proof.Machine.execEi s
  | .di => Sys2Proof.Machine.execDi s
  | .hlt => Sys2Proof.Machine.execHlt s
  | .nop => Sys2Proof.Machine.execNop s
  | .inPort port => Sys2Proof.Machine.execIn port s
  | .outPort port => Sys2Proof.Machine.execOut port s
  | .unimpl08 => Sys2Proof.Machine.execUnimpl08 s
  | .unimpl10 => Sys2Proof.Machine.execUnimpl10 s
  | .unimpl18 => Sys2Proof.Machine.execUnimpl18 s
  | .unimpl20 => Sys2Proof.Machine.execUnimpl20 s
  | .unimpl28 => Sys2Proof.Machine.execUnimpl28 s
  | .unimpl30 => Sys2Proof.Machine.execUnimpl30 s
  | .unimpl38 => Sys2Proof.Machine.execUnimpl38 s
  | .unimplCB => Sys2Proof.Machine.execUnimplCB s
  | .unimplD9 => Sys2Proof.Machine.execUnimplD9 s
  | .unimplDD => Sys2Proof.Machine.execUnimplDD s
  | .unimplED => Sys2Proof.Machine.execUnimplED s
  | .unimplFD => Sys2Proof.Machine.execUnimplFD s

end Sys2Proof.Machine
end

