-- ==== Sys2Proof/Machine/Fetch.lean ====
section
/-! DEFINITION. Where the next Step fetches, and how a word comes to stand there (for the host's questions, log
entry 12). -/

namespace Sys2Proof.Machine

/-- The address the next Step fetches its opcode from: PC, or the entry address of a due interrupt
(spec/30_encoding.md R88). -/
def State.fetchAddress (s : State) : Word := (s.serviceInterrupt config).pc

/-- Whether the two bytes an interrupt entry pushes fall on the three bytes the same Step fetches at `addr`. -/
def State.pushHits (s : State) (addr : Word) : Bool :=
  [s.sp - 2, s.sp - 2 + 1].any fun p => [addr, addr + 1, addr + 2].any fun f => memIndex p = memIndex f

/-- What a fetch needs before a word can be put in its place: the core runs, and no due entry is about to push over the
place (such an entry is masked by clearing IE). A Running state with no such entry is left as it is (log entry 12,
DESIGN CHOICE). -/
def State.prepareFetch (s : State) : State :=
  let s1 := if s.runState = .running then s else { s with runState := .running, fault := none }
  if s1.dueRequest.isSome && s1.pushHits s1.fetchAddress then { s1 with ie := false } else s1

/-- The three bytes of `w` at the fetch address, byte 1 lowest. -/
def State.storeAtFetch (s : State) (w : Nat) : State :=
  let f := s.fetchAddress
  ((s.memWrite f (byteOfNat w 0)).memWrite (f + 1) (byteOfNat w 1)).memWrite (f + 2) (byteOfNat w 2)

end Sys2Proof.Machine
end

