-- ==== Sys2Proof/Machine/Step.lean ====
section
/-! DEFINITION. One Step of CORE (spec/30_encoding.md R88), and where a word is put so that the next Step runs it. -/

namespace Sys2Proof.Machine

/-- `Step()` (R88): nothing unless Running (10_state.md R35); else the interrupt check and entry, the fetch at the PC
it leaves, and the instruction fetched, run in the state after the fetch. -/
def step (s : State) : Host.Outcome State Fault Refusal :=
  match s.runState with
  | .halted => .next s
  | .fatal => .next s
  | .running =>
    let s1 := s.serviceInterrupt config
    exec (s1.instrAt s1.pc) s1.afterFetch

/-- `s` with the three bytes of the number `w` of `nbits` bits (the bits above `nbits` zero) stored where `step` fetches
its next instruction, so that `step` of the result fetches and runs exactly it (log entry 12). -/
def State.withFetchWord (s : State) (nbits w : Nat) : State :=
  s.prepareFetch.storeAtFetch (w % 2 ^ nbits)

end Sys2Proof.Machine
end

