-- ==== Sys2Proof/Machine/HostEvents.lean ====
section
/-! DEFINITION. The host's side of CORE: the events of spec/60_exceptions.md R276 other than Step, and executions as
lists of whole events in any order (spec/00_scope.md R10). An event that the spec refuses has no transition: `none`
(log entry 9). -/

namespace Sys2Proof.Machine

/-! ### The events -/

/-- `Reset`: every field of the machine at its reset value (10_state.md R45; 70_reset_and_hazards.md R290). The model's
own counter of undefined bits goes on, so that a bit drawn after a Reset is chosen afresh (00_scope.md R8; log
entry 4). -/
def State.hostReset (s : State) : State := { State.reset with draws := s.draws }

/-- `LoadROM(size, data)` with `size = data.length`: accepted only while `icount = 0` and Running; a size of 0 or above
MEM_SIZE is the fatal condition MalformedROM with the whole PC and the size recorded and nothing copied
(70_reset_and_hazards.md R292; 60_exceptions.md R255; log entry 14). -/
def State.loadROM (s : State) (data : List Byte) : Option State :=
  if s.icount = 0 ∧ s.runState = .running then
    if data.length = 0 ∨ config.memSize < data.length then
      some { s with
        runState := .fatal
        fault := some { cause := .malformedROM, pc := s.pc, info := data.length } }
    else some { s with mem := memSetAll s.mem config.romBase.toNat data }
  else none

/-- `QueueInterrupt(vector, delay)` by the host: a vector outside 0 to 7 is refused (60_exceptions.md R258). -/
def State.hostQueueInterrupt (s : State) (vector delay : Nat) : Option State :=
  if vector < 8 then some (s.queueInterrupt (BitVec.ofNat 3 vector) delay) else none

/-- The first request of a frame tick (60_exceptions.md R259). -/
def State.frameTickMid (s : State) : State := s.queueInterrupt config.tickVectorMid config.tickDelayMid

/-- The second request of a frame tick (60_exceptions.md R259). -/
def State.frameTickEnd (s : State) : State := s.queueInterrupt config.tickVectorEnd config.tickDelayEnd

/-- `FrameTick` with nothing between its two requests (60_exceptions.md R259, decision D22; log entry 10). -/
def State.frameTick (s : State) : State := s.frameTickMid.frameTickEnd

/-- `SetInput(index, value)`: an index of 4 or more is refused (45_io_ports.md R236). -/
def State.setInput (s : State) (index : Nat) (value : Byte) : Option State :=
  match index with
  | 0 => some { s with inp := { s.inp with in0 := value } }
  | 1 => some { s with inp := { s.inp with in1 := value } }
  | 2 => some { s with inp := { s.inp with in2 := value } }
  | 3 => some { s with inp := { s.inp with in3 := value } }
  | _ => none

/-- `GetOutput(index)`: an index of 7 or more is refused (45_io_ports.md R237). -/
def State.getOutput (s : State) (index : Nat) : Option Byte :=
  match index with
  | 0 => some s.out.out0
  | 1 => some s.out.out1
  | 2 => some s.out.out2
  | 3 => some s.out.out3
  | 4 => some s.out.out4
  | 5 => some s.out.out5
  | 6 => some s.out.out6
  | _ => none

/-- `GetRAM(address)`, one byte of the read-only view (20_memory.md R62). -/
def State.getRAM (s : State) (address : Word) : Byte := s.memRead address

/-- The video window as one event reads it: VRAM_LEN bytes from VRAM_BASE (20_memory.md R57, R62). A host that reads
byte by byte uses `getRAM` with Steps between. -/
def State.videoWindow (s : State) : List Byte :=
  (List.range config.vramLen).map fun k => s.memRead (config.vramBase + BitVec.ofNat 16 k)

/-- The queue's length, which "should be surfaced as a metric" (60_exceptions.md R256). -/
def State.queueLength (s : State) : Nat := s.queue.length

/-! ### Executions -/

/-- The events (60_exceptions.md R276). `frameTickMid` and `frameTickEnd` are the two halves of a tick, for executions
with a Step between them (decision D22). The observing events change nothing. -/
inductive Event where
  | reset
  | loadROM (data : List Byte)
  | step
  | queueInterrupt (vector delay : Nat)
  | frameTick
  | frameTickMid
  | frameTickEnd
  | setInput (index : Nat) (value : Byte)
  | getOutput (index : Nat)
  | getRAM (address : Word)
  deriving DecidableEq, Repr

/-- The state a whole event leaves, or none where it is refused. -/
def State.event (s : State) : Event → Option State
  | .reset => some s.hostReset
  | .loadROM data => s.loadROM data
  | .step =>
    match step s with
    | .next t => some t
    | .fault _ => none
    | .refused _ => none
  | .queueInterrupt vector delay => s.hostQueueInterrupt vector delay
  | .frameTick => some s.frameTick
  | .frameTickMid => some s.frameTickMid
  | .frameTickEnd => some s.frameTickEnd
  | .setInput index value => s.setInput index value
  | .getOutput index => (s.getOutput index).map fun _ => s
  | .getRAM _ => some s

/-- An execution: the events in order, a refused one leaving the state as it was (decisions D19, D26, D28). -/
def State.run (s : State) : List Event → State
  | [] => s
  | e :: rest => ((s.event e).getD s).run rest

end Sys2Proof.Machine
end

