-- ==== Sys2Proof/Safety.lean ====
section
/-! DEFINITION. What a well-kept state is, what an instruction may write, and the states of the interrupt injection
logic, in the terms the claims use. -/

namespace Sys2Proof.Machine

/-! ### The invariant -/

/-- The twelve unimplemented opcode bytes (spec/30_encoding.md R91). -/
def unimplementedBytes : List Byte := [0x08, 0x10, 0x18, 0x20, 0x28, 0x30, 0x38, 0xCB, 0xD9, 0xDD, 0xED, 0xFD]

/-- The byte an instruction of the twelve stands for (30_encoding.md R91); none for every other instruction. -/
def unimplementedByte : Instr → Option Byte
  | .unimpl08 => some 0x08
  | .unimpl10 => some 0x10
  | .unimpl18 => some 0x18
  | .unimpl20 => some 0x20
  | .unimpl28 => some 0x28
  | .unimpl30 => some 0x30
  | .unimpl38 => some 0x38
  | .unimplCB => some 0xCB
  | .unimplD9 => some 0xD9
  | .unimplDD => some 0xDD
  | .unimplED => some 0xED
  | .unimplFD => some 0xFD
  | _ => none

/-- What the `info` of a fatal record can be (spec/60_exceptions.md R257). -/
def FaultRecord.InfoOk (r : FaultRecord) : Prop :=
  match r.cause with
  | .unrecognizedInstruction => ∃ op ∈ unimplementedBytes, r.info = op.toNat
  | .portRange => 4 ≤ r.info ∧ r.info ≤ 255
  | .malformedROM => r.info = 0 ∨ config.memSize < r.info

/-- The invariant of CORE: memory keeps its canonical form; a fatal record stands exactly in the Fatal state
(10_state.md R35, R38); its info fits its cause (60_exceptions.md R257); `out[4]` is never written (45_io_ports.md
R237). What R40 says of widths holds by the fields' types. -/
structure State.Inv (s : State) : Prop where
  memCanonical : Memory.wf s.mem = true
  recordIffFatal : s.fault.isSome = true ↔ s.runState = .fatal
  recordInfo : ∀ r, s.fault = some r → r.InfoOk
  out4Untouched : s.out.out4 = 0

/-- "every claim about a program takes `fault = none` as a premise" (10_state.md R38). -/
def State.Unfaulted (s : State) : Prop := s.fault = none ∧ s.runState ≠ .fatal

/-! ### What an instruction may write -/

/-- The parts of the state an instruction may write, PC apart. `stores` are the addresses of the bytes it stores. -/
structure Footprint where
  regs : List Reg := []
  sp : Bool := false
  zsp : Bool := false
  cy : Bool := false
  ac : Bool := false
  ie : Bool := false
  queue : Bool := false
  outs : List Nat := []
  shift : Bool := false
  run : Bool := false
  draws : Bool := false
  stores : List Word := []
  deriving DecidableEq, Repr

/-- The registers a pair is a view of (10_state.md R22). -/
def pairHalves : RegPair → List Reg
  | .bc => [.b, .c]
  | .de => [.d, .e]
  | .hl => [.h, .l]
  | .sp => []

/-- The footprint of a write to a pair. -/
def pairFootprint (rp : RegPair) : Footprint := { regs := pairHalves rp, sp := rp = .sp }

/-- The footprint of a push: SP and the two bytes below it (44_stack_control.md R210). -/
def pushFootprint (s : State) : Footprint := { sp := true, stores := [s.sp - 2, s.sp - 2 + 1] }

/-- What each instruction may write in state `s`: the destination of its rule, the flags of the table of 10_state.md
R29, and the bytes it stores, whose addresses are computed as its rule computes them. -/
def footprint (i : Instr) (s : State) : Footprint :=
  match i with
  | .movRR dst _ | .movRM dst | .mviR dst _ => { regs := [dst] }
  | .movMR _ | .mviM _ => { stores := [s.hl] }
  | .lxi rp _ | .inx rp | .dcx rp => pairFootprint rp
  | .lda _ | .ldax _ | .cma => { regs := [.a] }
  | .sta a16 => { stores := [a16] }
  | .lhld _ => { regs := [.h, .l] }
  | .shld a16 => { stores := [a16, a16 + 1] }
  | .stax rp => { stores := [s.getPair rp] }
  | .xchg => { regs := [.d, .e, .h, .l] }
  | .addR _ | .addM | .adi _ | .adcR _ | .adcM | .aci _ | .subR _ | .subM | .sui _ | .sbbR _ | .sbbM | .sbi _
  | .daa | .xraR _ | .xraM | .xri _ => { regs := [.a], zsp := true, cy := true, ac := true }
  | .anaR _ | .anaM | .ani _ | .oraR _ | .oraM | .ori _ =>
    { regs := [.a], zsp := true, cy := true, ac := true, draws := true }
  | .cmpR _ | .cmpM | .cpi _ => { zsp := true, cy := true, ac := true }
  | .inrR dst | .dcrR dst => { regs := [dst], zsp := true, ac := true }
  | .inrM | .dcrM => { zsp := true, ac := true, stores := [s.hl] }
  | .dad _ => { regs := [.h, .l], cy := true }
  | .rlc | .rrc | .ral | .rar => { regs := [.a], cy := true }
  | .cmc | .stc => { cy := true }
  | .jmp _ | .jcond _ _ | .pchl | .nop => {}
  | .call _ | .pushRp _ | .pushPsw => pushFootprint s
  | .ccond ccc _ => if s.flags.cond ccc then pushFootprint s else {}
  | .ret => { sp := true }
  | .rcond ccc => { sp := s.flags.cond ccc }
  | .rst _ => { queue := s.ie }
  | .popRp rp => { pairFootprint rp with sp := true }
  | .popPsw => { regs := [.a], sp := true, zsp := true, cy := true, ac := true }
  | .xthl => { regs := [.h, .l], stores := [s.sp, s.sp + 1] }
  | .sphl => { sp := true }
  | .ei | .di => { ie := true }
  | .hlt => { run := true }
  | .inPort port => if port.toNat < 4 then { regs := [.a] } else { run := true }
  | .outPort port =>
    if port = 4 then { shift := true } else if port.toNat < 7 then { outs := [port.toNat] } else { run := true }
  | .unimpl08 | .unimpl10 | .unimpl18 | .unimpl20 | .unimpl28 | .unimpl30 | .unimpl38 | .unimplCB | .unimplD9
  | .unimplDD | .unimplED | .unimplFD => { run := true }

/-- `t` differs from `s` in nothing outside the footprint, PC apart. Every byte of memory is spoken of through the read
of an address. -/
structure State.SameOutside (f : Footprint) (s t : State) : Prop where
  regs : ∀ r, r ∉ f.regs → t.getReg r = s.getReg r
  sp : f.sp = false → t.sp = s.sp
  zsp : f.zsp = false → t.flags.z = s.flags.z ∧ t.flags.s = s.flags.s ∧ t.flags.p = s.flags.p
  cy : f.cy = false → t.flags.cy = s.flags.cy
  ac : f.ac = false → t.flags.ac = s.flags.ac
  ie : f.ie = false → t.ie = s.ie
  icount : t.icount = s.icount
  queue : f.queue = false → t.queue = s.queue
  inp : t.inp = s.inp
  outs : ∀ k, k ∉ f.outs → t.getOutput k = s.getOutput k
  shift : f.shift = false → t.shift = s.shift
  run : f.run = false → t.runState = s.runState ∧ t.fault = s.fault
  draws : f.draws = false → t.draws = s.draws
  mem : ∀ a, (∀ b ∈ f.stores, memIndex a ≠ memIndex b) → t.memRead a = s.memRead a

/-! ### Results, said through reads -/

/-- `s` with the seven general registers of `t`. -/
def State.regsFrom (s t : State) : State :=
  { s with a := t.a, b := t.b, c := t.c, d := t.d, e := t.e, h := t.h, l := t.l }

/-- Register `r` reads `v` in `t`, every other register as in `s`. -/
def State.WritesReg (s t : State) (r : Reg) (v : Byte) : Prop :=
  t.getReg r = v ∧ ∀ q, q ≠ r → t.getReg q = s.getReg q

/-- The pair `rp` reads `v` in `t`, every register outside it and, unless it is SP, SP as in `s`. -/
def State.WritesPair (s t : State) (rp : RegPair) (v : Word) : Prop :=
  t.getPair rp = v ∧ (∀ q, q ∉ pairHalves rp → t.getReg q = s.getReg q) ∧ (rp ≠ .sp → t.sp = s.sp)

/-- Every address that reaches the index of `x` reads `v` in `t`, every other address as in `s`. -/
def State.WritesByte (s t : State) (x : Word) (v : Byte) : Prop :=
  ∀ y, t.memRead y = if memIndex y = memIndex x then v else s.memRead y

/-- The bytes at `x` and `x + 1` are the low and the high byte of `v` in `t`, every other byte as in `s`. -/
def State.WritesWord (s t : State) (x v : Word) : Prop :=
  ∀ y, t.memRead y
    = if memIndex y = memIndex (x + 1) then hiByte v
      else if memIndex y = memIndex x then loByte v else s.memRead y

/-- The flags of a result `n` below 256 with the given carry and auxiliary carry (10_state.md R26). -/
def resultFlags (n : Nat) (cy ac : Bool) : Flags :=
  { z := decide (n = 0), s := decide (128 ≤ n), p := parity (BitVec.ofNat 8 n), cy := cy, ac := ac }

/-- The control transfers, whose PC is their own affair (30_encoding.md R89 (b), (c)). -/
def isTransfer : Instr → Bool
  | .jmp _ | .jcond _ _ | .call _ | .ccond _ _ | .ret | .rcond _ | .pchl => true
  | _ => false

/-! ### The interrupt injection logic as a finite-state machine (spec/60_exceptions.md R261) -/

/-- Its four states, over the pair (IE, head of the queue). -/
inductive InjectionState where
  | empty
  | masked
  | waiting
  | due
  deriving DecidableEq, Repr

/-- The state the injection logic is in. -/
def State.injection (s : State) : InjectionState :=
  match s.queue with
  | [] => .empty
  | r :: _ => if !s.ie then .masked else if s.icount < r.target then .waiting else .due

end Sys2Proof.Machine
end

