-- ==== Sys2Proof/Certificates/Slice0/Obligations.lean ====
section
/-! DEFINITION. The statements about CORE for the provers. `exec i s` runs an instruction in the state after its opcode
fetch: `s.pc` is `pc0 + 1` and `s.icount` is already counted (log entry 7). -/

open Sys2Proof Sys2Proof.Machine

/-! ### Encoding -/

/-- Words written out from 30_encoding.md R81, R82, R86 and R90 (the spec's decisions D2 and D3) decode to the
instructions they stand for. -/
def Obligations.WrittenWordsDecode : Prop :=
  decode 0b00111110 0x05 0x76 = .mviR .a 0x05
    ∧ decode 0b11000011 0x34 0x12 = .jmp 0x1234
    ∧ decode 0b01110110 0x00 0x00 = .hlt
    ∧ decode 0b01011110 0x00 0x00 = .movRM .e
    ∧ decode 0b10011101 0x00 0x00 = .sbbR .l
    ∧ decode 0b11110001 0x00 0x00 = .popPsw
    ∧ decode 0b11011100 0x00 0x03 = .ccond .c 0x0300
    ∧ decode 0b11010111 0x00 0x00 = .rst 2
    ∧ decode 0b11011011 0x03 0x00 = .inPort 3

/-- No bit of an encoding is dropped: the bytes of a well-formed instruction, followed by any bytes, decode to it and
leave those bytes. -/
def Obligations.EncodeThenDecode : Prop :=
  ∀ (i : Instr) (rest : List Byte), i.wellFormed = true → decodeBytes (encode i ++ rest) = .ok (i, rest)

/-- Every three bytes decode to a well-formed instruction whose encoding is the first one, two or three of them: each
byte string has one meaning (30_encoding.md R87, R90, R93; the map is the spec's decision D2). -/
def Obligations.DecodeThenEncode : Prop :=
  ∀ op b2 b3 : Byte,
    (decode op b2 b3).wellFormed = true
      ∧ encode (decode op b2 b3) = [op, b2, b3].take (opcodeLength op)

/-! ### The Step -/

/-- A Running core with no due request runs the instruction whose bytes stand at PC, in the state with PC past the
opcode byte and one more instruction counted (30_encoding.md R88). -/
def Obligations.StepRunsDecodedInstruction : Prop :=
  ∀ (s : State) (i : Instr) (rest : List Byte),
    s.runState = .running →
    (∀ r q, s.queue = r :: q → s.ie = true → s.icount < r.target) →
    decodeBytes [s.memRead s.pc, s.memRead (s.pc + 1), s.memRead (s.pc + 2)] = .ok (i, rest) →
    i.wellFormed = true →
    step s = exec i { s with pc := s.pc + 1, icount := s.icount + 1 }

/-- A Running core with IE = 1 whose queue's head has reached its target first enters it: the head leaves the queue, PC
is pushed low byte lowest, PC becomes 8 times the vector, IE stays (the spec's decision D13, log entry 6); the same Step
then runs the instruction there (60_exceptions.md R261, R262). -/
def Obligations.StepEntersDueInterrupt : Prop :=
  ∀ (s : State) (r : Request) (q : List Request),
    Memory.wf s.mem = true → s.runState = .running → s.ie = true → s.queue = r :: q → r.target ≤ s.icount →
    ∃ u : State,
      u = { s with sp := s.sp - 2, pc := BitVec.ofNat 16 (8 * r.vector.toNat), queue := q, mem := u.mem }
        ∧ State.WritesWord s u (s.sp - 2) s.pc
        ∧ step s = exec (decode (u.memRead u.pc) (u.memRead (u.pc + 1)) (u.memRead (u.pc + 2)))
            { u with pc := u.pc + 1, icount := u.icount + 1 }

/-- Step always answers a next state (70_reset_and_hazards.md R297); a Running core counts exactly one instruction in
it, an interrupt entry counting none (10_state.md R33), and in Halted or Fatal it changes nothing (R35, the spec's
decision D31). -/
def Obligations.StepAnswersAndCountsOne : Prop :=
  ∀ s : State, ∃ t, step s = .next t
    ∧ (s.runState = .running → t.icount = s.icount + 1) ∧ (s.runState ≠ .running → t = s)

/-- The invariant of CORE (canonical memory, a fatal record exactly in Fatal, its info fitting its cause, `out[4]`
never written) is kept by every Step. -/
def Obligations.StepKeepsInvariant : Prop :=
  ∀ s t : State, s.Inv → step s = .next t → t.Inv

/-- The invariant is kept by every sequence of whole events, host events and Steps in any order
(00_scope.md R10; 10_state.md R40). -/
def Obligations.EventsKeepInvariant : Prop :=
  ∀ (s : State) (events : List Event), s.Inv → (s.run events).Inv

/-- The invariant holds right after Reset. -/
def Obligations.ResetHasInvariant : Prop := State.reset.Inv

/-- The state after Reset: PC = 0 is the source's, the other values are the spec's decision D16 (10_state.md R45; log
entries 2 and 3). Every address reads 0x00. The event Reset leaves exactly that state from any other, but for `draws`,
the model's own field, which keeps its value (log entry 4). -/
def Obligations.ResetLeavesTabulatedValues : Prop :=
  let s := State.reset
  s.pc = 0x0000 ∧ s.icount = 0 ∧ s.queue = [] ∧ s.ie = false ∧ s.runState = .running ∧ s.fault = none
    ∧ (∀ r, s.getReg r = 0) ∧ s.sp = 0x0000
    ∧ s.flags = { z := false, s := false, p := false, cy := false, ac := false }
    ∧ s.inp = { in0 := 0, in1 := 0, in2 := 0, in3 := 0 }
    ∧ s.out = { out0 := 0, out1 := 0, out2 := 0, out3 := 0, out4 := 0, out5 := 0, out6 := 0 }
    ∧ s.shift = 0x0000 ∧ (∀ x, s.memRead x = 0)
    ∧ ∀ u : State, u.event .reset = some { s with draws := u.draws }

/-- What an instruction other than a control transfer leaves in PC: `pc0` plus its length, unless it raised a fatal
condition, when PC stays `pc0 + 1` (30_encoding.md R87, R89). -/
def Obligations.PcPassesTheInstruction : Prop :=
  ∀ (i : Instr) (s t : State),
    i.wellFormed = true → isTransfer i = false → s.runState = .running → exec i s = .next t →
    t.pc = if t.runState = .fatal then s.pc
      else s.pc - 1 + BitVec.ofNat 16 (opcodeLength i.opcode)

/-! ### The interrupt queue and latch -/

/-- First in, first out (60_exceptions.md R263): a Step drops at most the head, and only when IE = 1 and its target is
reached; it appends at most one request, behind all others, and only when IE = 1; a due head leaves in that very Step,
so that due requests are entered in their order, one a Step; a host's request lands behind whatever waits. That a
request made by a Step has the new count as its target is the spec's decision D12 (RST_DELAY = 0, log entry 6); that DI
keeps the queue is its decision D15. -/
def Obligations.QueueIsFifoAcrossSteps : Prop :=
  (∀ s t : State, step s = .next t →
      ∃ dropped kept added : List Request,
        s.queue = dropped ++ kept ∧ t.queue = kept ++ added
          ∧ (dropped = [] ∨ ∃ r, dropped = [r] ∧ s.ie = true ∧ r.target ≤ s.icount)
          ∧ (added = [] ∨ ∃ n, added = [{ vector := n, target := t.icount }] ∧ s.ie = true))
    ∧ (∀ (s t : State) (r : Request) (q : List Request),
        s.runState = .running → s.ie = true → s.queue = r :: q → r.target ≤ s.icount → step s = .next t →
        ∃ added, t.queue = q ++ added)
    ∧ (∀ (s : State) (v : BitVec 3) (delay : Nat), ∃ added, (s.queueInterrupt v delay).queue = s.queue ++ added)
    ∧ (∀ s : State, ∃ added, s.frameTick.queue = s.queue ++ added)

/-- A request at the head is never entered before its target, whatever events come between, Reset apart: while fewer
Steps have been taken than the target asks for, it is still the head, with what stood behind it in order
(60_exceptions.md R263 (a), R277). -/
def Obligations.RequestIsNeverEnteredEarly : Prop :=
  ∀ (events : List Event) (s : State) (r : Request) (q : List Request),
    s.queue = r :: q → Event.reset ∉ events → s.icount + events.count .step ≤ r.target →
    ∃ added, (s.run events).queue = r :: q ++ added

/-- IE is written only by EI and DI: a Step that changes it ran one of the two (60_exceptions.md R268, at the
parameter's value; log entry 6). -/
def Obligations.OnlyEiAndDiChangeIE : Prop :=
  ∀ s t : State, step s = .next t → t.ie ≠ s.ie →
    let u := s.serviceInterrupt config
    (decode (u.memRead u.pc) (u.memRead (u.pc + 1)) (u.memRead (u.pc + 2)) = .ei ∧ t.ie = true)
      ∨ (decode (u.memRead u.pc) (u.memRead (u.pc + 1)) (u.memRead (u.pc + 2)) = .di ∧ t.ie = false)

/-- The injection logic of 60_exceptions.md R261: the check's exact condition, that a Running core makes it before the
fetch, that only Due makes a Step perform an entry, and each transition of the four-state machine the rule names. That
an entry does not lead to Masked rests on INT_ENTRY_CLEARS_IE being false (decision D13, log entry 6). -/
def Obligations.InjectionStateMachine : Prop :=
  (∀ s : State, s.injection = .due ↔ ∃ r q, s.ie = true ∧ s.queue = r :: q ∧ r.target ≤ s.icount)
    ∧ (∀ s : State, s.injection = .empty ↔ s.queue = [])
    ∧ (∀ s : State, s.injection = .masked ↔ s.queue ≠ [] ∧ s.ie = false)
    ∧ (∀ s : State, s.injection = .waiting ↔ ∃ r q, s.ie = true ∧ s.queue = r :: q ∧ s.icount < r.target)
    ∧ (∀ s : State, s.runState = .running →
        step s = exec ((s.serviceInterrupt config).instrAt (s.serviceInterrupt config).pc)
          (s.serviceInterrupt config).afterFetch)
    ∧ (∀ s : State, s.injection ≠ .due → s.serviceInterrupt config = s)
    ∧ (∀ (s : State) (r : Request) (q : List Request), s.injection = .due → s.queue = r :: q →
        (s.serviceInterrupt config).queue = q
          ∧ (s.serviceInterrupt config).pc = BitVec.ofNat 16 (8 * r.vector.toNat)
          ∧ (s.serviceInterrupt config).injection ≠ .masked)
    ∧ (∀ s : State, s.injection = .waiting → s.afterFetch.injection = .waiting ∨ s.afterFetch.injection = .due)
    ∧ (∀ (s : State) (r : Request) (q : List Request), s.ie = true → s.queue = r :: q → r.target = s.icount + 1 →
        s.injection = .waiting ∧ s.afterFetch.injection = .due)
    ∧ (∀ s t : State, s.injection = .masked → exec .ei s = .next t → t.injection = .waiting ∨ t.injection = .due)
    ∧ (∀ s t : State, s.injection = .waiting ∨ s.injection = .due → exec .di s = .next t → t.injection = .masked)
    ∧ (∀ (s : State) (v : BitVec 3) (delay : Nat), s.injection = .empty → s.ie = true →
        (s.queueInterrupt v delay).injection = if delay = 0 then .due else .waiting)

/-- The eight entry addresses of 60_exceptions.md R264: 8 times the vector, eight bytes apart; execution continues at
the address itself, whatever stands in memory; vector 0 is the reset entry, frame ticks use 0x0010. -/
def Obligations.VectorsEnterAtEightTimesVector : Prop :=
  (∀ (s : State) (v : BitVec 3), (s.enterInterrupt config v).pc = BitVec.ofNat 16 (8 * v.toNat))
    ∧ [0, 1, 2, 3, 4, 5, 6, 7].map (fun v => (State.reset.enterInterrupt config v).pc)
        = [0x0000, 0x0008, 0x0010, 0x0018, 0x0020, 0x0028, 0x0030, 0x0038]
    ∧ (∀ s : State, (s.enterInterrupt config 0).pc = State.reset.pc)
    ∧ (∀ s : State, s.ie = true →
        s.frameTick.queue
          = s.queue ++ [{ vector := 2, target := s.icount }, { vector := 2, target := s.icount + 25000 }])
    ∧ (∀ s : State, (s.enterInterrupt config 2).pc = 0x0010)

/-- A return right after an entry gives back PC and SP (60_exceptions.md R262, R266): RET in the entered state ends at
the displaced instruction with SP and, by the spec's decision D13 (log entry 6), IE as they were. -/
def Obligations.ReturnUndoesInterruptEntry : Prop :=
  ∀ (s : State) (v : BitVec 3), Memory.wf s.mem = true →
    ∃ t, exec .ret (s.enterInterrupt config v) = .next t ∧ t.pc = s.pc ∧ t.sp = s.sp ∧ t.ie = s.ie

/-- RST n with IE = 1 and an empty queue, over two Steps (43_branch.md R197): the first leaves PC at the next byte and
queues (n, the new count), the delay 0 being the spec's decision D12; the second pushes that PC and runs the instruction
at 8n, as a one-byte call would, with IE as it was, which is decision D13 (log entry 6). -/
def Obligations.RstIsServedAtTheNextStep : Prop :=
  ∀ (s : State) (n : BitVec 3),
    Memory.wf s.mem = true → s.runState = .running → s.ie = true → s.queue = [] →
    s.memRead s.pc = 0b11#2 ++ n ++ 0b111#3 →
    ∃ t u : State,
      step s = .next t
        ∧ t = { s with
              pc := s.pc + 1, icount := s.icount + 1, queue := [{ vector := n, target := s.icount + 1 }] }
        ∧ u = { t with sp := t.sp - 2, pc := BitVec.ofNat 16 (8 * n.toNat), queue := [], mem := u.mem }
        ∧ State.WritesWord t u (t.sp - 2) (s.pc + 1)
        ∧ step t = exec (decode (u.memRead u.pc) (u.memRead (u.pc + 1)) (u.memRead (u.pc + 2)))
            { u with pc := u.pc + 1, icount := u.icount + 1 }

/-! ### Frames and isolation -/

/-- What any instruction leaves unchanged: everything outside its footprint (`footprint`: destination registers, the
flags of the table of 10_state.md R29, the stored bytes at the addresses its rule computes), PC apart. -/
def Obligations.InstructionsWriteOnlyTheirFootprint : Prop :=
  ∀ (i : Instr) (s t : State), Memory.wf s.mem = true → exec i s = .next t →
    State.SameOutside (footprint i s) s t

/-- No instruction observes or writes input latch 3, IN 3 among them (10_state.md R36). -/
def Obligations.InputLatch3IsNeverRead : Prop :=
  ∀ (i : Instr) (s : State) (v : Byte),
    ∃ t, exec i s = .next t
      ∧ exec i { s with inp := { s.inp with in3 := v } } = .next { t with inp := { t.inp with in3 := v } }

/-! ### Memory and stack -/

/-- Memory has no side effects (20_memory.md R56): a write is seen at its index and nowhere else, so a read returns the
byte last written there; no I/O read has an effect beyond A and PC; OUT 4 is not idempotent. -/
def Obligations.MemoryHasNoSideEffects : Prop :=
  (∀ (s : State) (x : Word) (v : Byte), Memory.wf s.mem = true →
      s.memWrite x v = { s with mem := (s.memWrite x v).mem } ∧ State.WritesByte s (s.memWrite x v) x v
        ∧ Memory.wf (s.memWrite x v).mem = true)
    ∧ (∀ (s t : State) (p : Byte), p.toNat < 4 → exec (.inPort p) s = .next t → t = { s with a := t.a, pc := t.pc })
    ∧ (∀ s t u : State, exec (.outPort 4) s = .next t → exec (.outPort 4) t = .next u → hiByte s.shift ≠ s.a →
        u.shift ≠ t.shift)

/-- Equal arrays are equal lists: the canonical form is unique. -/
def Obligations.MemoryFormIsCanonical : Prop :=
  ∀ m m' : List Host.Cell, Memory.wf m = true → Memory.wf m' = true → (∀ i, memGet m i = memGet m' i) → m = m'

/-- 16-bit accesses are little-endian, wrap at 0xFFFF, and a stored word reads back (20_memory.md R52, R54); the array
is mirrored every 0x4000 addresses (R51, the spec's decision D4). -/
def Obligations.WordAccessLaws : Prop :=
  (∀ (s : State) (x : Word), (s.memRead16 x).toNat = (s.memRead x).toNat + 256 * (s.memRead (x + 1)).toNat)
    ∧ (∀ (s : State) (x v : Word), Memory.wf s.mem = true →
        State.WritesWord s (s.memWrite16 x v) x v ∧ (s.memWrite16 x v).memRead16 x = v)
    ∧ (∀ s : State, (s.memRead16 0xFFFF).toNat = (s.memRead 0xFFFF).toNat + 256 * (s.memRead 0x0000).toNat)
    ∧ (∀ (s : State) (x : Word), s.memRead (x + 0x4000) = s.memRead x)

/-- `push16(v)` (44_stack_control.md R210), for every SP: SP goes down by 2 modulo 65536, the low byte lies at the new
SP, the high byte above it, every other byte is kept, and nothing else changes; SP = 0x0001 wraps as the rule's example
says. -/
def Obligations.PushStoresWordBelowSP : Prop :=
  (∀ (s : State) (v : Word), Memory.wf s.mem = true →
      s.push16 v = { s with sp := s.sp - 2, mem := (s.push16 v).mem }
        ∧ (s.push16 v).sp.toNat = (s.sp.toNat + 65534) % 65536
        ∧ (s.push16 v).memRead (s.sp - 2) = v.extractLsb' 0 8
        ∧ (s.push16 v).memRead (s.sp - 2 + 1) = v.extractLsb' 8 8
        ∧ (∀ y : Word, y.toNat % 0x4000 ≠ (s.sp - 2).toNat % 0x4000 →
            y.toNat % 0x4000 ≠ (s.sp - 2 + 1).toNat % 0x4000 → (s.push16 v).memRead y = s.memRead y))
    ∧ (∀ (s : State) (v : Word), Memory.wf s.mem = true → s.sp = 0x0001 →
        (s.push16 v).sp = 0xFFFF ∧ (s.push16 v).memRead 0xFFFF = v.extractLsb' 0 8
          ∧ (s.push16 v).memRead 0x0000 = v.extractLsb' 8 8)

/-- PUSH then POP round-trips and SP returns, for every pair and SP, and for PSW with all five flags
(44_stack_control.md R211). -/
def Obligations.PushThenPopRoundTrips : Prop :=
  (∀ (s : State) (rp rp' : RegPair), Memory.wf s.mem = true → rp ≠ .sp → rp' ≠ .sp →
      ∃ t u, exec (.pushRp rp) s = .next t ∧ exec (.popRp rp') t = .next u
        ∧ u.getPair rp' = s.getPair rp ∧ u.sp = s.sp)
    ∧ (∀ s : State, Memory.wf s.mem = true →
        ∃ t u, exec .pushPsw s = .next t ∧ exec .popPsw t = .next u
          ∧ u.a = s.a ∧ u.flags = s.flags ∧ u.sp = s.sp)

/-! ### Flags -/

/-- Parity (10_state.md R27): 1 exactly when the number of 1 bits is even, as the exclusive or says, and the rule's
examples. -/
def Obligations.ParityIsEvenCountOfOnes : Prop :=
  (∀ r : Byte, parity r = true ↔
      Even (((Finset.range 8).filter fun i => r.getLsbD i = true).card))
    ∧ (∀ r : Byte, parity r
        = (true ^^ r.getLsbD 0 ^^ r.getLsbD 1 ^^ r.getLsbD 2 ^^ r.getLsbD 3 ^^ r.getLsbD 4 ^^ r.getLsbD 5
            ^^ r.getLsbD 6 ^^ r.getLsbD 7))
    ∧ parity 0x03 = true ∧ parity 0x07 = false ∧ parity 0x00 = true

/-- The PSW byte (10_state.md R30): its value by weights, that unpacking a packed byte gives the flags back, and that
packing an unpacked byte `v` gives `(v & 0xD5) | 0x02`. -/
def Obligations.PswPackAndUnpack : Prop :=
  (∀ f : Flags, (pswPack f).toNat
      = f.s.toNat * 128 + f.z.toNat * 64 + f.ac.toNat * 16 + f.p.toNat * 4 + 2 + f.cy.toNat)
    ∧ (∀ f : Flags, pswUnpack (pswPack f) = f)
    ∧ (∀ v : Byte, pswPack (pswUnpack v) = (v &&& 0xD5) ||| 0x02)

/-- DAA after ADD of two packed decimal bytes from 00 to 99 gives the packed decimal sum modulo 100, with CY = 1 exactly
when the sum is 100 or more (41_arithmetic.md R133, R152). -/
def Obligations.DaaCorrectsDecimalSum : Prop :=
  ∀ (s : State) (r : Reg) (x y : Nat), x < 100 → y < 100 →
    s.a = BitVec.ofNat 8 (x / 10 * 16 + x % 10) → s.getReg r = BitVec.ofNat 8 (y / 10 * 16 + y % 10) →
    ∃ t u, exec (.addR r) s = .next t ∧ exec .daa t = .next u
      ∧ u.a = BitVec.ofNat 8 ((x + y) % 100 / 10 * 16 + (x + y) % 10) ∧ u.flags.cy = decide (100 ≤ x + y)

/-! ### Data transfer -/

/-- MOV and MVI (40_data_transfer.md R111 to R115): the destination register or the byte at HL takes the source, M is
the byte at HL as it was before; nothing else changes but PC past an operand byte. -/
def Obligations.MovAndMviCopyOneByte : Prop :=
  ∀ (s : State) (dst src : Reg) (d8 : Byte), Memory.wf s.mem = true →
    (∃ t, exec (.movRR dst src) s = .next t ∧ t = s.regsFrom t ∧ State.WritesReg s t dst (s.getReg src))
      ∧ (∃ t, exec (.movRM dst) s = .next t ∧ t = s.regsFrom t
          ∧ State.WritesReg s t dst (s.memRead (joinBytes s.h s.l)))
      ∧ (∃ t, exec (.movMR src) s = .next t ∧ t = { s with mem := t.mem }
          ∧ State.WritesByte s t (joinBytes s.h s.l) (s.getReg src))
      ∧ (∃ t, exec (.mviR dst d8) s = .next t ∧ t = { s.regsFrom t with pc := s.pc + 1 }
          ∧ State.WritesReg s t dst d8)
      ∧ (∃ t, exec (.mviM d8) s = .next t ∧ t = { s with mem := t.mem, pc := s.pc + 1 }
          ∧ State.WritesByte s t (joinBytes s.h s.l) d8)

/-- LXI (40_data_transfer.md R116): the pair, or SP, takes `d16`, its high byte in the first-named register; nothing
else changes but PC past two operand bytes. -/
def Obligations.LxiLoadsPair : Prop :=
  ∀ (s : State) (d16 : Word),
    exec (.lxi .bc d16) s = .next { s with b := hiByte d16, c := loByte d16, pc := s.pc + 2 }
      ∧ exec (.lxi .de d16) s = .next { s with d := hiByte d16, e := loByte d16, pc := s.pc + 2 }
      ∧ exec (.lxi .hl d16) s = .next { s with h := hiByte d16, l := loByte d16, pc := s.pc + 2 }
      ∧ exec (.lxi .sp d16) s = .next { s with sp := d16, pc := s.pc + 2 }

/-- LDA, LHLD and LDAX (40_data_transfer.md R117, R119, R121): A, or L and H, take the addressed bytes, L the lower one;
the address pair is not modified. -/
def Obligations.LoadsTakeAddressedBytes : Prop :=
  ∀ (s : State) (x : Word),
    exec (.lda x) s = .next { s with a := s.memRead x, pc := s.pc + 2 }
      ∧ exec (.lhld x) s = .next { s with l := s.memRead x, h := s.memRead (x + 1), pc := s.pc + 2 }
      ∧ exec (.ldax .bc) s = .next { s with a := s.memRead (joinBytes s.b s.c) }
      ∧ exec (.ldax .de) s = .next { s with a := s.memRead (joinBytes s.d s.e) }

/-- STA, SHLD and STAX (40_data_transfer.md R118, R120, R122): A, or L and H, are stored at the address, L at the lower
one; no register changes. -/
def Obligations.StoresWriteAddressedBytes : Prop :=
  ∀ (s : State) (x : Word), Memory.wf s.mem = true →
    (∃ t, exec (.sta x) s = .next t ∧ t = { s with mem := t.mem, pc := s.pc + 2 } ∧ State.WritesByte s t x s.a)
      ∧ (∃ t, exec (.shld x) s = .next t ∧ t = { s with mem := t.mem, pc := s.pc + 2 }
          ∧ State.WritesWord s t x (joinBytes s.h s.l))
      ∧ (∃ t, exec (.stax .bc) s = .next t ∧ t = { s with mem := t.mem }
          ∧ State.WritesByte s t (joinBytes s.b s.c) s.a)
      ∧ (∃ t, exec (.stax .de) s = .next t ∧ t = { s with mem := t.mem }
          ∧ State.WritesByte s t (joinBytes s.d s.e) s.a)

/-- XCHG exchanges DE and HL and SPHL copies HL to SP; neither changes anything else (40_data_transfer.md R123;
44_stack_control.md R217). -/
def Obligations.XchgAndSphl : Prop :=
  ∀ s : State,
    exec .xchg s = .next { s with d := s.h, e := s.l, h := s.d, l := s.e }
      ∧ exec .sphl s = .next { s with sp := joinBytes s.h s.l }

/-! ### Arithmetic -/

/-- ADD, ADI, ADC and ACI in every operand form (41_arithmetic.md R130, R133 to R138): the sum modulo 256 to A, Z, S and
P of it, CY past 255, AC past 15 of the low nibbles; nothing else changes but PC past an operand byte. The carry-in in
the nibble sum is the spec's decision D6. -/
def Obligations.AddFormsGiveSumAndFlags : Prop :=
  ∀ (s : State) (r : Reg) (d8 : Byte),
    let after := fun (v : Byte) (cin : Nat) (passed : Word) =>
      let t := s.a.toNat + v.toNat + cin
      { s with
        a := BitVec.ofNat 8 t
        flags := resultFlags (t % 256) (decide (255 < t)) (decide (15 < s.a.toNat % 16 + v.toNat % 16 + cin))
        pc := s.pc + passed }
    let m := s.memRead (joinBytes s.h s.l)
    let cy := s.flags.cy.toNat
    exec (.addR r) s = .next (after (s.getReg r) 0 0) ∧ exec .addM s = .next (after m 0 0)
      ∧ exec (.adi d8) s = .next (after d8 0 1) ∧ exec (.adcR r) s = .next (after (s.getReg r) cy 0)
      ∧ exec .adcM s = .next (after m cy 0) ∧ exec (.aci d8) s = .next (after d8 cy 1)

/-- SUB, SUI, SBB and SBI in every operand form (41_arithmetic.md R131, R139 to R144): the difference modulo 256 to A,
Z, S and P of it, CY on borrow, AC on nibble borrow (decision D7); nothing else changes but PC past an operand byte. -/
def Obligations.SubFormsGiveDifferenceAndFlags : Prop :=
  ∀ (s : State) (r : Reg) (d8 : Byte),
    let after := fun (v : Byte) (bin : Nat) (passed : Word) =>
      let n := (256 + s.a.toNat - v.toNat + 256 - bin) % 256
      { s with
        a := BitVec.ofNat 8 n
        flags := resultFlags n (decide (s.a.toNat < v.toNat + bin))
          (decide (s.a.toNat % 16 < v.toNat % 16 + bin))
        pc := s.pc + passed }
    let m := s.memRead (joinBytes s.h s.l)
    let cy := s.flags.cy.toNat
    exec (.subR r) s = .next (after (s.getReg r) 0 0) ∧ exec .subM s = .next (after m 0 0)
      ∧ exec (.sui d8) s = .next (after d8 0 1) ∧ exec (.sbbR r) s = .next (after (s.getReg r) cy 0)
      ∧ exec .sbbM s = .next (after m cy 0) ∧ exec (.sbi d8) s = .next (after d8 cy 1)

/-- INR and DCR on a register and on M (41_arithmetic.md R145 to R148): plus or minus one modulo 256, Z, S and P of the
result, AC on the nibble's carry or borrow, CY kept (decisions D7, D8); nothing else changes. -/
def Obligations.IncrementAndDecrementByte : Prop :=
  ∀ (s : State) (r : Reg), Memory.wf s.mem = true →
    let up := fun v : Byte => resultFlags ((v.toNat + 1) % 256) s.flags.cy (decide (v.toNat % 16 = 15))
    let down := fun v : Byte => resultFlags ((v.toNat + 255) % 256) s.flags.cy (decide (v.toNat % 16 = 0))
    let m := s.memRead (joinBytes s.h s.l)
    (∃ t, exec (.inrR r) s = .next t ∧ t = { s.regsFrom t with flags := up (s.getReg r) }
        ∧ State.WritesReg s t r (s.getReg r + 1))
      ∧ (∃ t, exec .inrM s = .next t ∧ t = { s with mem := t.mem, flags := up m }
          ∧ State.WritesByte s t (joinBytes s.h s.l) (m + 1))
      ∧ (∃ t, exec (.dcrR r) s = .next t ∧ t = { s.regsFrom t with flags := down (s.getReg r) }
          ∧ State.WritesReg s t r (s.getReg r - 1))
      ∧ (∃ t, exec .dcrM s = .next t ∧ t = { s with mem := t.mem, flags := down m }
          ∧ State.WritesByte s t (joinBytes s.h s.l) (m - 1))

/-- INX, DCX and DAD on every pair (41_arithmetic.md R132, R149 to R151): plus or minus one modulo 65536 with no flag;
HL plus the pair with CY past 65535 and no other flag; nothing else changes. -/
def Obligations.PairArithmetic : Prop :=
  ∀ (s : State) (rp : RegPair),
    (∃ t, exec (.inx rp) s = .next t ∧ t = { s.regsFrom t with sp := t.sp }
        ∧ State.WritesPair s t rp (BitVec.ofNat 16 ((s.getPair rp).toNat + 1)))
      ∧ (∃ t, exec (.dcx rp) s = .next t ∧ t = { s.regsFrom t with sp := t.sp }
          ∧ State.WritesPair s t rp (BitVec.ofNat 16 ((s.getPair rp).toNat + 65535)))
      ∧ (∃ t, exec (.dad rp) s = .next t
          ∧ t = { s.regsFrom t with
                flags := { s.flags with cy := decide (65535 < (joinBytes s.h s.l).toNat + (s.getPair rp).toNat) } }
          ∧ State.WritesPair s t .hl (BitVec.ofNat 16 ((joinBytes s.h s.l).toNat + (s.getPair rp).toNat)))

/-- DAA (41_arithmetic.md R152) for every A, CY and AC: the correction of the rule, Z, S and P of the result, AC the
carry out of bit 3, CY set when 0x60 is added and never cleared; nothing else changes. -/
def Obligations.DaaFollowsItsAlgorithm : Prop :=
  ∀ s : State,
    let lo := s.a.toNat % 16
    let hi := s.a.toNat / 16
    let six := s.flags.ac = true ∨ 9 < lo
    let sixty := s.flags.cy = true ∨ 9 < hi ∨ (9 ≤ hi ∧ 9 < lo)
    let t := s.a.toNat + (if six then 6 else 0) + (if sixty then 96 else 0)
    exec .daa s = .next { s with
      a := BitVec.ofNat 8 t
      flags := resultFlags (t % 256) (decide sixty) (decide (six ∧ 9 < lo)) }

/-! ### Logical -/

/-- ANA, ANI, ORA and ORI in every operand form (42_logical.md R160 to R162, R166 to R168): the result to A, Z, S and P
of it, CY = 0, AC the next undefined bit (a free value: this holds whatever `freeBit` is and wherever `draws` stands;
log entry 4); nothing else changes but PC past an operand byte. -/
def Obligations.AndOrFormsLeaveACFree : Prop :=
  ∀ (s : State) (r : Reg) (d8 : Byte),
    let after := fun (w : Byte) (passed : Word) =>
      { s with
        a := w
        flags := resultFlags w.toNat false (freeBit s.draws)
        draws := s.draws + 1
        pc := s.pc + passed }
    let m := s.memRead (joinBytes s.h s.l)
    exec (.anaR r) s = .next (after (s.a &&& s.getReg r) 0) ∧ exec .anaM s = .next (after (s.a &&& m) 0)
      ∧ exec (.ani d8) s = .next (after (s.a &&& d8) 1) ∧ exec (.oraR r) s = .next (after (s.a ||| s.getReg r) 0)
      ∧ exec .oraM s = .next (after (s.a ||| m) 0) ∧ exec (.ori d8) s = .next (after (s.a ||| d8) 1)

/-- XRA and XRI in every operand form (42_logical.md R163 to R165): the exclusive or to A, Z, S and P of it, CY = 0,
AC = 0 (decision D9); nothing else changes but PC past an operand byte. -/
def Obligations.XorFormsClearCarries : Prop :=
  ∀ (s : State) (r : Reg) (d8 : Byte),
    let after := fun (w : Byte) (passed : Word) =>
      { s with a := w, flags := resultFlags w.toNat false false, pc := s.pc + passed }
    exec (.xraR r) s = .next (after (s.a ^^^ s.getReg r) 0)
      ∧ exec .xraM s = .next (after (s.a ^^^ s.memRead (joinBytes s.h s.l)) 0)
      ∧ exec (.xri d8) s = .next (after (s.a ^^^ d8) 1)

/-- CMP and CPI in every operand form (42_logical.md R169 to R171): the flags of A minus the operand, Z exactly when
equal, CY exactly when A is below, AC on nibble borrow (the spec's decision D7); A and everything else unchanged but PC
past an operand byte. -/
def Obligations.CompareFormsSetFlagsOnly : Prop :=
  ∀ (s : State) (r : Reg) (d8 : Byte),
    let after := fun (v : Byte) (passed : Word) =>
      { s with
        flags :=
          { z := decide (s.a = v)
            s := (s.a - v).msb
            p := parity (s.a - v)
            cy := decide (s.a.toNat < v.toNat)
            ac := decide (s.a.toNat % 16 < v.toNat % 16) }
        pc := s.pc + passed }
    exec (.cmpR r) s = .next (after (s.getReg r) 0)
      ∧ exec .cmpM s = .next (after (s.memRead (joinBytes s.h s.l)) 0)
      ∧ exec (.cpi d8) s = .next (after d8 1)

/-- RLC, RRC, RAL and RAR (42_logical.md R172 to R175), in shifts: A rotated by one, alone or through CY; CY the bit
that left; nothing else changes. -/
def Obligations.RotatesMoveOneBit : Prop :=
  ∀ s : State,
    let after := fun (w : Byte) (c : Bool) => { s with a := w, flags := { s.flags with cy := c } }
    exec .rlc s = .next (after (s.a.rotateLeft 1) (s.a.getLsbD 7))
      ∧ exec .rrc s = .next (after (s.a.rotateRight 1) (s.a.getLsbD 0))
      ∧ exec .ral s = .next (after (s.a <<< 1 ||| (if s.flags.cy then 1 else 0)) (s.a.getLsbD 7))
      ∧ exec .rar s = .next (after (s.a >>> 1 ||| (if s.flags.cy then 0x80 else 0)) (s.a.getLsbD 0))

/-- CMA, CMC and STC (42_logical.md R176 to R178): A becomes 255 minus A with no flag; CY is inverted; CY is set;
nothing else changes. -/
def Obligations.ComplementAndCarry : Prop :=
  ∀ s : State,
    exec .cma s = .next { s with a := 255 - s.a }
      ∧ exec .cmc s = .next { s with flags := { s.flags with cy := !s.flags.cy } }
      ∧ exec .stc s = .next { s with flags := { s.flags with cy := true } }

/-! ### Control transfer -/

/-- JMP, Jccc and PCHL (43_branch.md R190 to R192, R198): PC takes the target, a condition not met leaves it past the
three bytes; nothing else changes. Each condition is spelled out. -/
def Obligations.JumpsGoToTheirTarget : Prop :=
  ∀ (s : State) (x : Word),
    let taken := Host.Outcome.next (φ := Fault) (ρ := Refusal) { s with pc := x }
    let passed := Host.Outcome.next (φ := Fault) (ρ := Refusal) { s with pc := s.pc + 2 }
    exec (.jmp x) s = taken ∧ exec .pchl s = .next { s with pc := joinBytes s.h s.l }
      ∧ exec (.jcond .nz x) s = (if s.flags.z = false then taken else passed)
      ∧ exec (.jcond .z x) s = (if s.flags.z = true then taken else passed)
      ∧ exec (.jcond .nc x) s = (if s.flags.cy = false then taken else passed)
      ∧ exec (.jcond .c x) s = (if s.flags.cy = true then taken else passed)
      ∧ exec (.jcond .po x) s = (if s.flags.p = false then taken else passed)
      ∧ exec (.jcond .pe x) s = (if s.flags.p = true then taken else passed)
      ∧ exec (.jcond .p x) s = (if s.flags.s = false then taken else passed)
      ∧ exec (.jcond .m x) s = (if s.flags.s = true then taken else passed)

/-- CALL and Cccc (43_branch.md R193, R194): when taken, the address of the next instruction is pushed and PC takes the
target; when not, PC passes the three bytes and stack and memory are untouched; nothing else changes. -/
def Obligations.CallsPushTheReturnAddress : Prop :=
  ∀ (s : State) (ccc : Cond) (x : Word), Memory.wf s.mem = true →
    (∃ t, exec (.call x) s = .next t ∧ t = { s with sp := s.sp - 2, mem := t.mem, pc := x }
        ∧ State.WritesWord s t (s.sp - 2) (s.pc - 1 + 3))
      ∧ (s.flags.cond ccc = true →
          ∃ t, exec (.ccond ccc x) s = .next t ∧ t = { s with sp := s.sp - 2, mem := t.mem, pc := x }
            ∧ State.WritesWord s t (s.sp - 2) (s.pc - 1 + 3))
      ∧ (s.flags.cond ccc = false → exec (.ccond ccc x) s = .next { s with pc := s.pc - 1 + 3 })

/-- RET and Rccc (43_branch.md R195, R196): when taken, PC is the word at SP and SP goes up by 2; when not, nothing
beyond the fetch; nothing else changes, IE among it. -/
def Obligations.ReturnsPopPc : Prop :=
  ∀ (s : State) (ccc : Cond),
    let popped := { s with pc := joinBytes (s.memRead (s.sp + 1)) (s.memRead s.sp), sp := s.sp + 2 }
    exec .ret s = .next popped
      ∧ exec (.rcond ccc) s = .next (if s.flags.cond ccc = true then popped else s)

/-- RST n (43_branch.md R197): with IE = 1 the request (n, icount) goes to the tail of the queue, the delay 0 being the
spec's decision D12; with IE = 0 nothing; nothing is pushed and PC is not redirected. -/
def Obligations.RstQueuesARequest : Prop :=
  ∀ (s : State) (n : BitVec 3),
    exec (.rst n) s
      = .next (if s.ie = true then { s with queue := s.queue ++ [{ vector := n, target := s.icount }] } else s)

/-! ### Stack and control -/

/-- PUSH and PUSH PSW (44_stack_control.md R212, R213): SP goes down by 2, the pair, or A above the flag byte, lies
there; nothing else changes. -/
def Obligations.PushForms : Prop :=
  ∀ (s : State) (rp : RegPair), Memory.wf s.mem = true → rp ≠ .sp →
    (∃ t, exec (.pushRp rp) s = .next t ∧ t = { s with sp := s.sp - 2, mem := t.mem }
        ∧ State.WritesWord s t (s.sp - 2) (s.getPair rp))
      ∧ (∃ t, exec .pushPsw s = .next t ∧ t = { s with sp := s.sp - 2, mem := t.mem }
          ∧ State.WritesWord s t (s.sp - 2) (joinBytes s.a (pswPack s.flags)))

/-- POP and POP PSW (44_stack_control.md R214, R215): the byte at SP goes to the low register or the flags, the byte
above to the high register or A, SP goes up by 2; nothing else changes, memory among it. -/
def Obligations.PopForms : Prop :=
  ∀ s : State,
    let lo := s.memRead s.sp
    let hi := s.memRead (s.sp + 1)
    exec (.popRp .bc) s = .next { s with b := hi, c := lo, sp := s.sp + 2 }
      ∧ exec (.popRp .de) s = .next { s with d := hi, e := lo, sp := s.sp + 2 }
      ∧ exec (.popRp .hl) s = .next { s with h := hi, l := lo, sp := s.sp + 2 }
      ∧ exec .popPsw s = .next { s with
          a := hi
          sp := s.sp + 2
          flags :=
            { s := lo.getLsbD 7, z := lo.getLsbD 6, ac := lo.getLsbD 4, p := lo.getLsbD 2, cy := lo.getLsbD 0 } }

/-- XTHL (44_stack_control.md R216): HL and the word at SP change places, both reads before both writes; SP and
everything else unchanged. -/
def Obligations.XthlExchangesStackTop : Prop :=
  ∀ s : State, Memory.wf s.mem = true →
    ∃ t, exec .xthl s = .next t
      ∧ t = { s with l := s.memRead s.sp, h := s.memRead (s.sp + 1), mem := t.mem }
      ∧ State.WritesWord s t s.sp (joinBytes s.h s.l)

/-- EI, DI, HLT and NOP (44_stack_control.md R218 to R221): IE set, IE cleared with the queue kept, Halted with no fatal
record written, nothing; nothing else changes. EI's next check, DI's kept queue and a terminal HLT are the spec's
decisions D14, D15 and D11. -/
def Obligations.MachineControl : Prop :=
  ∀ s : State,
    exec .ei s = .next { s with ie := true } ∧ exec .di s = .next { s with ie := false }
      ∧ exec .hlt s = .next { s with runState := .halted } ∧ exec .nop s = .next s

/-! ### I/O -/

/-- `PortRead` (45_io_ports.md R232), seen through IN: ports 0 to 2 give the latches, port 3 the window of the shift
register (by the formula, by its bits, as the high byte of the shifted word, and at offsets 0 and 7), which input latch
3 never affects; any other port raises PortRange with A and all latches unchanged (the spec's decision D17). -/
def Obligations.PortReadSelects : Prop :=
  ∀ s : State,
    let n := s.out.out2.toNat % 8
    s.portRead 0 = some s.inp.in0 ∧ s.portRead 1 = some s.inp.in1 ∧ s.portRead 2 = some s.inp.in2
      ∧ s.portRead 3 = some (BitVec.ofNat 8 (s.shift.toNat / 2 ^ (8 - n) % 256))
      ∧ (∃ w, s.portRead 3 = some w ∧ w = hiByte (s.shift <<< n)
          ∧ (∀ k, k < 8 → w.getLsbD k = s.shift.getLsbD (8 - n + k))
          ∧ (n = 0 → w = s.shift.extractLsb' 8 8) ∧ (n = 7 → w = s.shift.extractLsb' 1 8))
      ∧ (∀ (v p : Byte), ({ s with inp := { s.inp with in3 := v } } : State).portRead p = s.portRead p)
      ∧ (∀ (p v : Byte), s.portRead p = some v → exec (.inPort p) s = .next { s with a := v, pc := s.pc + 1 })
      ∧ (∀ p : Byte, 4 ≤ p.toNat → s.portRead p = none
          ∧ exec (.inPort p) s = .next { s with
              runState := .fatal, fault := some { cause := .portRange, pc := s.pc - 1, info := p.toNat } })

/-- OUT on the seven ports of the bank (45_io_ports.md R233, R235): port 4 loads the shift register and no latch (the
spec's decision D18), every other port takes A into its own latch alone; PC passes the port byte; nothing else
changes. -/
def Obligations.OutWritesThePort : Prop :=
  ∀ s : State,
    let next := s.pc + 1
    exec (.outPort 0) s = .next { s with out := { s.out with out0 := s.a }, pc := next }
      ∧ exec (.outPort 1) s = .next { s with out := { s.out with out1 := s.a }, pc := next }
      ∧ exec (.outPort 2) s = .next { s with out := { s.out with out2 := s.a }, pc := next }
      ∧ exec (.outPort 3) s = .next { s with out := { s.out with out3 := s.a }, pc := next }
      ∧ exec (.outPort 4) s = .next { s with
          shift := BitVec.ofNat 16 (s.a.toNat * 256 + s.shift.toNat / 256), pc := next }
      ∧ exec (.outPort 5) s = .next { s with out := { s.out with out5 := s.a }, pc := next }
      ∧ exec (.outPort 6) s = .next { s with out := { s.out with out6 := s.a }, pc := next }

/-- A port outside the bank takes the fatal condition PortRange (60_exceptions.md R252, R253; decision D17): run_state
and the record are written, PC stays at `pc0 + 1`, nothing else changes. -/
def Obligations.PortOutsideTheBankIsFatal : Prop :=
  ∀ (s : State) (p : Byte),
    let stopped := { s with
      runState := .fatal, fault := some { cause := .portRange, pc := s.pc - 1, info := p.toNat } }
    (4 ≤ p.toNat → exec (.inPort p) s = .next stopped) ∧ (7 ≤ p.toNat → exec (.outPort p) s = .next stopped)

/-- The properties of the shift register (45_io_ports.md R238): (b) no instruction but OUT 4 changes it, IN 3 included,
and none but IN 3 observes it, nor does the interrupt check; no host event but Reset changes it, and none observes it, by
what it does, by whether it is refused or by what it returns; (c) two loads fully determine it; (d) IN 3 reads bits 15-n
to 8-n of it, which after two loads is the later byte shifted left by the offset with the top bits of the earlier one
coming in; (e) bits 7 to 3 of `out[2]` are latched and readable by the host but do not count; (f) the eight windows of
0xABCD; (g) those of the bytes 0x12 then 0x34. -/
def Obligations.ShiftRegisterProperties : Prop :=
  (∀ (i : Instr) (s : State) (w : Word), i ≠ .inPort 3 → i ≠ .outPort 4 →
      ∃ t, exec i s = .next t ∧ t.shift = s.shift ∧ exec i { s with shift := w } = .next { t with shift := w })
    ∧ (∀ s : State, ∃ t, exec (.inPort 3) s = .next t ∧ t.shift = s.shift)
    ∧ (∀ (s : State) (w : Word), (s.serviceInterrupt config).shift = s.shift
        ∧ { s with shift := w }.serviceInterrupt config = { s.serviceInterrupt config with shift := w })
    ∧ (∀ (s : State) (e : Event), e ≠ .reset → e ≠ .step →
        (∀ t, s.event e = some t → t.shift = s.shift)
          ∧ ∀ w : Word, { s with shift := w }.event e = (s.event e).map fun t => { t with shift := w })
    ∧ (∀ (s : State) (w : Word) (index : Nat) (x : Word),
        { s with shift := w }.getOutput index = s.getOutput index ∧ { s with shift := w }.getRAM x = s.getRAM x
          ∧ { s with shift := w }.videoWindow = s.videoWindow ∧ { s with shift := w }.queueLength = s.queueLength)
    ∧ (∀ (s : State) (v1 v2 k : Byte),
        ∃ s1 s2 s3 t : State,
          exec (.outPort 4) { s with a := v1 } = .next s1 ∧ exec (.outPort 4) { s1 with a := v2 } = .next s2
            ∧ exec (.outPort 2) { s2 with a := k } = .next s3 ∧ exec (.inPort 3) s3 = .next t
            ∧ s2.shift = BitVec.ofNat 16 (v2.toNat * 256 + v1.toNat)
            ∧ t.a = (v2 <<< (k.toNat % 8)) ||| (v1 >>> (8 - k.toNat % 8)))
    ∧ (∀ s : State, s.portRead 3 = some (s.shift.extractLsb' (8 - s.out.out2.toNat % 8) 8))
    ∧ (∀ (s : State) (k : Byte), ∃ t, exec (.outPort 2) { s with a := k } = .next t ∧ t.getOutput 2 = some k)
    ∧ (∀ (s : State) (k : Byte),
        { s with out := { s.out with out2 := k } }.portRead 3
          = { s with out := { s.out with out2 := k &&& 7 } }.portRead 3)
    ∧ (∀ s : State, s.shift = 0xABCD →
        [0, 1, 2, 3, 4, 5, 6, 7].map (fun n => { s with out := { s.out with out2 := n } }.portRead 3)
          = [0xAB, 0x57, 0xAF, 0x5E, 0xBC, 0x79, 0xF3, 0xE6].map some)
    ∧ (∀ s : State,
        [0, 1, 2, 3, 4, 5, 6, 7].map
            (fun n => { (s.loadShift 0x12).loadShift 0x34 with out := { s.out with out2 := n } }.portRead 3)
          = [0x34, 0x68, 0xD0, 0xA0, 0x41, 0x82, 0x04, 0x09].map some)

/-! ### Fatal conditions -/

/-- The twelve unimplemented bytes (30_encoding.md R91; 60_exceptions.md R251, R253): each takes the fatal condition
UnrecognizedInstruction, with run_state and the record (pc0, the byte) written and nothing else. Which bytes they are is
the spec's decision D1, the form of the record D23. -/
def Obligations.UnimplementedInstructionsAreFatal : Prop :=
  ∀ s : State,
    let stopped := fun op : Nat => Host.Outcome.next (φ := Fault) (ρ := Refusal) { s with
      runState := .fatal, fault := some { cause := .unrecognizedInstruction, pc := s.pc - 1, info := op } }
    exec .unimpl08 s = stopped 0x08 ∧ exec .unimpl10 s = stopped 0x10 ∧ exec .unimpl18 s = stopped 0x18
      ∧ exec .unimpl20 s = stopped 0x20 ∧ exec .unimpl28 s = stopped 0x28 ∧ exec .unimpl30 s = stopped 0x30
      ∧ exec .unimpl38 s = stopped 0x38 ∧ exec .unimplCB s = stopped 0xCB ∧ exec .unimplD9 s = stopped 0xD9
      ∧ exec .unimplDD s = stopped 0xDD ∧ exec .unimplED s = stopped 0xED ∧ exec .unimplFD s = stopped 0xFD

/-- Exactly the twelve bytes raise UnrecognizedInstruction (60_exceptions.md R251, R253): a Step of a Running core with
no due request and no record ends with that record if and only if the byte at PC is one of them, and then only PC,
icount, run_state and the record have changed (decisions D1 and D23). -/
def Obligations.ExactlyTwelveBytesAreUnrecognized : Prop :=
  ∀ s t : State,
    s.runState = .running → s.fault = none → (∀ r q, s.queue = r :: q → s.ie = true → s.icount < r.target) →
    step s = .next t →
    let op := s.memRead s.pc
    ((∃ f, t.fault = some f ∧ f.cause = .unrecognizedInstruction)
        ↔ op ∈ ([0x08, 0x10, 0x18, 0x20, 0x28, 0x30, 0x38, 0xCB, 0xD9, 0xDD, 0xED, 0xFD] : List Byte))
      ∧ (op ∈ ([0x08, 0x10, 0x18, 0x20, 0x28, 0x30, 0x38, 0xCB, 0xD9, 0xDD, 0xED, 0xFD] : List Byte) →
          t = { s with
            pc := s.pc + 1
            icount := s.icount + 1
            runState := .fatal
            fault := some { cause := .unrecognizedInstruction, pc := s.pc, info := op.toNat } })

/-! ### Host events -/

/-- `QueueInterrupt` and `FrameTick` (60_exceptions.md R258, R259): appended in order with targets from the current
count when IE = 1, lost when IE = 0, a vector outside 0 to 7 refused (decision D19), the tick as one event (decision
D22, log entry 10); nothing but the queue changes. -/
def Obligations.RequestsAreGatedByIE : Prop :=
  ∀ (s : State) (vector delay : Nat),
    (s.event (.queueInterrupt vector delay)
        = if 8 ≤ vector then none
          else some (if s.ie = true then
            { s with queue := s.queue ++ [{ vector := BitVec.ofNat 3 vector, target := s.icount + delay }] } else s))
      ∧ s.event .frameTick
        = some (if s.ie = true then
            { s with
              queue := s.queue ++
                [{ vector := 2, target := s.icount }, { vector := 2, target := s.icount + 25000 }] } else s)

/-- `LoadROM` (70_reset_and_hazards.md R292; 60_exceptions.md R255): accepted only before the first Step of a Running
core; the image lies from address 0 and every other byte is kept; a size of 0 or above 0x4000 is MalformedROM with
nothing copied (decision D26). -/
def Obligations.LoadRomPlacesTheImage : Prop :=
  ∀ (s : State) (data : List Byte), Memory.wf s.mem = true →
    (s.icount ≠ 0 ∨ s.runState ≠ .running → s.event (.loadROM data) = none)
      ∧ (s.icount = 0 → s.runState = .running → (data.length = 0 ∨ 0x4000 < data.length) →
          s.event (.loadROM data) = some { s with
            runState := .fatal, fault := some { cause := .malformedROM, pc := s.pc, info := data.length } })
      ∧ (s.icount = 0 → s.runState = .running → 1 ≤ data.length → data.length ≤ 0x4000 →
          ∃ t, s.event (.loadROM data) = some t ∧ t = { s with mem := t.mem }
            ∧ ∀ x : Word, t.memRead x
                = if x.toNat % 0x4000 < data.length then data.getD (x.toNat % 0x4000) 0 else s.memRead x)

/-- `SetInput`, `GetOutput` and `GetRAM` (45_io_ports.md R236, R237; 20_memory.md R62): an input latch of index 0 to 3
takes the value alone; an output latch of index 0 to 6 and any memory byte are read with no change; other indices are
refused (decision D28). -/
def Obligations.HostPortAndMemoryEvents : Prop :=
  ∀ (s : State) (index : Nat) (v : Byte) (x : Word),
    s.event (.setInput index v)
        = (if index = 0 then some { s with inp := { s.inp with in0 := v } }
          else if index = 1 then some { s with inp := { s.inp with in1 := v } }
          else if index = 2 then some { s with inp := { s.inp with in2 := v } }
          else if index = 3 then some { s with inp := { s.inp with in3 := v } }
          else none)
      ∧ s.getOutput index
        = [s.out.out0, s.out.out1, s.out.out2, s.out.out3, s.out.out4, s.out.out5, s.out.out6][index]?
      ∧ s.event (.getOutput index) = (if index < 7 then some s else none)
      ∧ s.getRAM x = memGet s.mem (x.toNat % 0x4000) ∧ s.event (.getRAM x) = some s
      ∧ s.videoWindow.length = 7168
      ∧ ∀ k, k < 7168 → s.videoWindow[k]? = some (memGet s.mem (0x2400 + k))
end

