-- ==== Sys2Proof/Laws/State.lean ====
section
/-! SUPPORT. What each named update of a state leaves as it was, one lemma per field, and what it writes. -/

namespace Sys2Proof.Machine

/-! ### The parameters -/

@[simp] theorem config_memSize : config.memSize = 16384 := rfl
@[simp] theorem config_romBase : config.romBase = 0 := rfl
@[simp] theorem config_vectorStride : config.vectorStride = 8 := rfl
@[simp] theorem config_rstDelay : config.rstDelay = 0 := rfl
@[simp] theorem config_intEntryClearsIE : config.intEntryClearsIE = false := rfl
@[simp] theorem config_portShiftRead : config.portShiftRead = 3 := rfl
@[simp] theorem config_portShiftAmount : config.portShiftAmount = 2 := rfl
@[simp] theorem config_portShiftData : config.portShiftData = 4 := rfl

/-! ### Fields an update leaves as they were -/

@[simp] theorem setReg_sp (s : State) (r : Reg) (v : Byte) : (s.setReg r v).sp = s.sp := by cases r <;> rfl
@[simp] theorem setReg_pc (s : State) (r : Reg) (v : Byte) : (s.setReg r v).pc = s.pc := by cases r <;> rfl
@[simp] theorem setReg_flags (s : State) (r : Reg) (v : Byte) : (s.setReg r v).flags = s.flags := by cases r <;> rfl
@[simp] theorem setReg_ie (s : State) (r : Reg) (v : Byte) : (s.setReg r v).ie = s.ie := by cases r <;> rfl
@[simp] theorem setReg_icount (s : State) (r : Reg) (v : Byte) : (s.setReg r v).icount = s.icount := by cases r <;> rfl
@[simp] theorem setReg_queue (s : State) (r : Reg) (v : Byte) : (s.setReg r v).queue = s.queue := by cases r <;> rfl
@[simp] theorem setReg_inp (s : State) (r : Reg) (v : Byte) : (s.setReg r v).inp = s.inp := by cases r <;> rfl
@[simp] theorem setReg_out (s : State) (r : Reg) (v : Byte) : (s.setReg r v).out = s.out := by cases r <;> rfl
@[simp] theorem setReg_shift (s : State) (r : Reg) (v : Byte) : (s.setReg r v).shift = s.shift := by cases r <;> rfl
@[simp] theorem setReg_mem (s : State) (r : Reg) (v : Byte) : (s.setReg r v).mem = s.mem := by cases r <;> rfl
@[simp] theorem setReg_runState (s : State) (r : Reg) (v : Byte) : (s.setReg r v).runState = s.runState := by cases r <;> rfl
@[simp] theorem setReg_fault (s : State) (r : Reg) (v : Byte) : (s.setReg r v).fault = s.fault := by cases r <;> rfl
@[simp] theorem setReg_draws (s : State) (r : Reg) (v : Byte) : (s.setReg r v).draws = s.draws := by cases r <;> rfl

@[simp] theorem setPair_a (s : State) (rp : RegPair) (v : Word) : (s.setPair rp v).a = s.a := by cases rp <;> rfl
@[simp] theorem setPair_pc (s : State) (rp : RegPair) (v : Word) : (s.setPair rp v).pc = s.pc := by cases rp <;> rfl
@[simp] theorem setPair_flags (s : State) (rp : RegPair) (v : Word) : (s.setPair rp v).flags = s.flags := by cases rp <;> rfl
@[simp] theorem setPair_ie (s : State) (rp : RegPair) (v : Word) : (s.setPair rp v).ie = s.ie := by cases rp <;> rfl
@[simp] theorem setPair_icount (s : State) (rp : RegPair) (v : Word) : (s.setPair rp v).icount = s.icount := by cases rp <;> rfl
@[simp] theorem setPair_queue (s : State) (rp : RegPair) (v : Word) : (s.setPair rp v).queue = s.queue := by cases rp <;> rfl
@[simp] theorem setPair_inp (s : State) (rp : RegPair) (v : Word) : (s.setPair rp v).inp = s.inp := by cases rp <;> rfl
@[simp] theorem setPair_out (s : State) (rp : RegPair) (v : Word) : (s.setPair rp v).out = s.out := by cases rp <;> rfl
@[simp] theorem setPair_shift (s : State) (rp : RegPair) (v : Word) : (s.setPair rp v).shift = s.shift := by cases rp <;> rfl
@[simp] theorem setPair_mem (s : State) (rp : RegPair) (v : Word) : (s.setPair rp v).mem = s.mem := by cases rp <;> rfl
@[simp] theorem setPair_runState (s : State) (rp : RegPair) (v : Word) : (s.setPair rp v).runState = s.runState := by cases rp <;> rfl
@[simp] theorem setPair_fault (s : State) (rp : RegPair) (v : Word) : (s.setPair rp v).fault = s.fault := by cases rp <;> rfl
@[simp] theorem setPair_draws (s : State) (rp : RegPair) (v : Word) : (s.setPair rp v).draws = s.draws := by cases rp <;> rfl

@[simp] theorem advance_a (s : State) (n : Word) : (s.advance n).a = s.a := rfl
@[simp] theorem advance_b (s : State) (n : Word) : (s.advance n).b = s.b := rfl
@[simp] theorem advance_c (s : State) (n : Word) : (s.advance n).c = s.c := rfl
@[simp] theorem advance_d (s : State) (n : Word) : (s.advance n).d = s.d := rfl
@[simp] theorem advance_e (s : State) (n : Word) : (s.advance n).e = s.e := rfl
@[simp] theorem advance_h (s : State) (n : Word) : (s.advance n).h = s.h := rfl
@[simp] theorem advance_l (s : State) (n : Word) : (s.advance n).l = s.l := rfl
@[simp] theorem advance_sp (s : State) (n : Word) : (s.advance n).sp = s.sp := rfl
@[simp] theorem advance_flags (s : State) (n : Word) : (s.advance n).flags = s.flags := rfl
@[simp] theorem advance_ie (s : State) (n : Word) : (s.advance n).ie = s.ie := rfl
@[simp] theorem advance_icount (s : State) (n : Word) : (s.advance n).icount = s.icount := rfl
@[simp] theorem advance_queue (s : State) (n : Word) : (s.advance n).queue = s.queue := rfl
@[simp] theorem advance_inp (s : State) (n : Word) : (s.advance n).inp = s.inp := rfl
@[simp] theorem advance_out (s : State) (n : Word) : (s.advance n).out = s.out := rfl
@[simp] theorem advance_shift (s : State) (n : Word) : (s.advance n).shift = s.shift := rfl
@[simp] theorem advance_mem (s : State) (n : Word) : (s.advance n).mem = s.mem := rfl
@[simp] theorem advance_runState (s : State) (n : Word) : (s.advance n).runState = s.runState := rfl
@[simp] theorem advance_fault (s : State) (n : Word) : (s.advance n).fault = s.fault := rfl
@[simp] theorem advance_draws (s : State) (n : Word) : (s.advance n).draws = s.draws := rfl

@[simp] theorem jump_a (s : State) (t : Word) : (s.jump t).a = s.a := rfl
@[simp] theorem jump_b (s : State) (t : Word) : (s.jump t).b = s.b := rfl
@[simp] theorem jump_c (s : State) (t : Word) : (s.jump t).c = s.c := rfl
@[simp] theorem jump_d (s : State) (t : Word) : (s.jump t).d = s.d := rfl
@[simp] theorem jump_e (s : State) (t : Word) : (s.jump t).e = s.e := rfl
@[simp] theorem jump_h (s : State) (t : Word) : (s.jump t).h = s.h := rfl
@[simp] theorem jump_l (s : State) (t : Word) : (s.jump t).l = s.l := rfl
@[simp] theorem jump_sp (s : State) (t : Word) : (s.jump t).sp = s.sp := rfl
@[simp] theorem jump_flags (s : State) (t : Word) : (s.jump t).flags = s.flags := rfl
@[simp] theorem jump_ie (s : State) (t : Word) : (s.jump t).ie = s.ie := rfl
@[simp] theorem jump_icount (s : State) (t : Word) : (s.jump t).icount = s.icount := rfl
@[simp] theorem jump_queue (s : State) (t : Word) : (s.jump t).queue = s.queue := rfl
@[simp] theorem jump_inp (s : State) (t : Word) : (s.jump t).inp = s.inp := rfl
@[simp] theorem jump_out (s : State) (t : Word) : (s.jump t).out = s.out := rfl
@[simp] theorem jump_shift (s : State) (t : Word) : (s.jump t).shift = s.shift := rfl
@[simp] theorem jump_mem (s : State) (t : Word) : (s.jump t).mem = s.mem := rfl
@[simp] theorem jump_runState (s : State) (t : Word) : (s.jump t).runState = s.runState := rfl
@[simp] theorem jump_fault (s : State) (t : Word) : (s.jump t).fault = s.fault := rfl
@[simp] theorem jump_draws (s : State) (t : Word) : (s.jump t).draws = s.draws := rfl

@[simp] theorem memWrite_a (s : State) (x : Word) (v : Byte) : (s.memWrite x v).a = s.a := rfl
@[simp] theorem memWrite_b (s : State) (x : Word) (v : Byte) : (s.memWrite x v).b = s.b := rfl
@[simp] theorem memWrite_c (s : State) (x : Word) (v : Byte) : (s.memWrite x v).c = s.c := rfl
@[simp] theorem memWrite_d (s : State) (x : Word) (v : Byte) : (s.memWrite x v).d = s.d := rfl
@[simp] theorem memWrite_e (s : State) (x : Word) (v : Byte) : (s.memWrite x v).e = s.e := rfl
@[simp] theorem memWrite_h (s : State) (x : Word) (v : Byte) : (s.memWrite x v).h = s.h := rfl
@[simp] theorem memWrite_l (s : State) (x : Word) (v : Byte) : (s.memWrite x v).l = s.l := rfl
@[simp] theorem memWrite_sp (s : State) (x : Word) (v : Byte) : (s.memWrite x v).sp = s.sp := rfl
@[simp] theorem memWrite_pc (s : State) (x : Word) (v : Byte) : (s.memWrite x v).pc = s.pc := rfl
@[simp] theorem memWrite_flags (s : State) (x : Word) (v : Byte) : (s.memWrite x v).flags = s.flags := rfl
@[simp] theorem memWrite_ie (s : State) (x : Word) (v : Byte) : (s.memWrite x v).ie = s.ie := rfl
@[simp] theorem memWrite_icount (s : State) (x : Word) (v : Byte) : (s.memWrite x v).icount = s.icount := rfl
@[simp] theorem memWrite_queue (s : State) (x : Word) (v : Byte) : (s.memWrite x v).queue = s.queue := rfl
@[simp] theorem memWrite_inp (s : State) (x : Word) (v : Byte) : (s.memWrite x v).inp = s.inp := rfl
@[simp] theorem memWrite_out (s : State) (x : Word) (v : Byte) : (s.memWrite x v).out = s.out := rfl
@[simp] theorem memWrite_shift (s : State) (x : Word) (v : Byte) : (s.memWrite x v).shift = s.shift := rfl
@[simp] theorem memWrite_runState (s : State) (x : Word) (v : Byte) : (s.memWrite x v).runState = s.runState := rfl
@[simp] theorem memWrite_fault (s : State) (x : Word) (v : Byte) : (s.memWrite x v).fault = s.fault := rfl
@[simp] theorem memWrite_draws (s : State) (x : Word) (v : Byte) : (s.memWrite x v).draws = s.draws := rfl

@[simp] theorem memWrite16_a (s : State) (x v : Word) : (s.memWrite16 x v).a = s.a := rfl
@[simp] theorem memWrite16_b (s : State) (x v : Word) : (s.memWrite16 x v).b = s.b := rfl
@[simp] theorem memWrite16_c (s : State) (x v : Word) : (s.memWrite16 x v).c = s.c := rfl
@[simp] theorem memWrite16_d (s : State) (x v : Word) : (s.memWrite16 x v).d = s.d := rfl
@[simp] theorem memWrite16_e (s : State) (x v : Word) : (s.memWrite16 x v).e = s.e := rfl
@[simp] theorem memWrite16_h (s : State) (x v : Word) : (s.memWrite16 x v).h = s.h := rfl
@[simp] theorem memWrite16_l (s : State) (x v : Word) : (s.memWrite16 x v).l = s.l := rfl
@[simp] theorem memWrite16_sp (s : State) (x v : Word) : (s.memWrite16 x v).sp = s.sp := rfl
@[simp] theorem memWrite16_pc (s : State) (x v : Word) : (s.memWrite16 x v).pc = s.pc := rfl
@[simp] theorem memWrite16_flags (s : State) (x v : Word) : (s.memWrite16 x v).flags = s.flags := rfl
@[simp] theorem memWrite16_ie (s : State) (x v : Word) : (s.memWrite16 x v).ie = s.ie := rfl
@[simp] theorem memWrite16_icount (s : State) (x v : Word) : (s.memWrite16 x v).icount = s.icount := rfl
@[simp] theorem memWrite16_queue (s : State) (x v : Word) : (s.memWrite16 x v).queue = s.queue := rfl
@[simp] theorem memWrite16_inp (s : State) (x v : Word) : (s.memWrite16 x v).inp = s.inp := rfl
@[simp] theorem memWrite16_out (s : State) (x v : Word) : (s.memWrite16 x v).out = s.out := rfl
@[simp] theorem memWrite16_shift (s : State) (x v : Word) : (s.memWrite16 x v).shift = s.shift := rfl
@[simp] theorem memWrite16_runState (s : State) (x v : Word) : (s.memWrite16 x v).runState = s.runState := rfl
@[simp] theorem memWrite16_fault (s : State) (x v : Word) : (s.memWrite16 x v).fault = s.fault := rfl
@[simp] theorem memWrite16_draws (s : State) (x v : Word) : (s.memWrite16 x v).draws = s.draws := rfl

@[simp] theorem push16_a (s : State) (v : Word) : (s.push16 v).a = s.a := rfl
@[simp] theorem push16_b (s : State) (v : Word) : (s.push16 v).b = s.b := rfl
@[simp] theorem push16_c (s : State) (v : Word) : (s.push16 v).c = s.c := rfl
@[simp] theorem push16_d (s : State) (v : Word) : (s.push16 v).d = s.d := rfl
@[simp] theorem push16_e (s : State) (v : Word) : (s.push16 v).e = s.e := rfl
@[simp] theorem push16_h (s : State) (v : Word) : (s.push16 v).h = s.h := rfl
@[simp] theorem push16_l (s : State) (v : Word) : (s.push16 v).l = s.l := rfl
@[simp] theorem push16_pc (s : State) (v : Word) : (s.push16 v).pc = s.pc := rfl
@[simp] theorem push16_flags (s : State) (v : Word) : (s.push16 v).flags = s.flags := rfl
@[simp] theorem push16_ie (s : State) (v : Word) : (s.push16 v).ie = s.ie := rfl
@[simp] theorem push16_icount (s : State) (v : Word) : (s.push16 v).icount = s.icount := rfl
@[simp] theorem push16_queue (s : State) (v : Word) : (s.push16 v).queue = s.queue := rfl
@[simp] theorem push16_inp (s : State) (v : Word) : (s.push16 v).inp = s.inp := rfl
@[simp] theorem push16_out (s : State) (v : Word) : (s.push16 v).out = s.out := rfl
@[simp] theorem push16_shift (s : State) (v : Word) : (s.push16 v).shift = s.shift := rfl
@[simp] theorem push16_runState (s : State) (v : Word) : (s.push16 v).runState = s.runState := rfl
@[simp] theorem push16_fault (s : State) (v : Word) : (s.push16 v).fault = s.fault := rfl
@[simp] theorem push16_draws (s : State) (v : Word) : (s.push16 v).draws = s.draws := rfl

@[simp] theorem dropTop_a (s : State) : (s.dropTop).a = s.a := rfl
@[simp] theorem dropTop_b (s : State) : (s.dropTop).b = s.b := rfl
@[simp] theorem dropTop_c (s : State) : (s.dropTop).c = s.c := rfl
@[simp] theorem dropTop_d (s : State) : (s.dropTop).d = s.d := rfl
@[simp] theorem dropTop_e (s : State) : (s.dropTop).e = s.e := rfl
@[simp] theorem dropTop_h (s : State) : (s.dropTop).h = s.h := rfl
@[simp] theorem dropTop_l (s : State) : (s.dropTop).l = s.l := rfl
@[simp] theorem dropTop_pc (s : State) : (s.dropTop).pc = s.pc := rfl
@[simp] theorem dropTop_flags (s : State) : (s.dropTop).flags = s.flags := rfl
@[simp] theorem dropTop_ie (s : State) : (s.dropTop).ie = s.ie := rfl
@[simp] theorem dropTop_icount (s : State) : (s.dropTop).icount = s.icount := rfl
@[simp] theorem dropTop_queue (s : State) : (s.dropTop).queue = s.queue := rfl
@[simp] theorem dropTop_inp (s : State) : (s.dropTop).inp = s.inp := rfl
@[simp] theorem dropTop_out (s : State) : (s.dropTop).out = s.out := rfl
@[simp] theorem dropTop_shift (s : State) : (s.dropTop).shift = s.shift := rfl
@[simp] theorem dropTop_mem (s : State) : (s.dropTop).mem = s.mem := rfl
@[simp] theorem dropTop_runState (s : State) : (s.dropTop).runState = s.runState := rfl
@[simp] theorem dropTop_fault (s : State) : (s.dropTop).fault = s.fault := rfl
@[simp] theorem dropTop_draws (s : State) : (s.dropTop).draws = s.draws := rfl

@[simp] theorem raise_a (s : State) (k : FatalCause) (n : Nat) : (s.raise k n).a = s.a := rfl
@[simp] theorem raise_b (s : State) (k : FatalCause) (n : Nat) : (s.raise k n).b = s.b := rfl
@[simp] theorem raise_c (s : State) (k : FatalCause) (n : Nat) : (s.raise k n).c = s.c := rfl
@[simp] theorem raise_d (s : State) (k : FatalCause) (n : Nat) : (s.raise k n).d = s.d := rfl
@[simp] theorem raise_e (s : State) (k : FatalCause) (n : Nat) : (s.raise k n).e = s.e := rfl
@[simp] theorem raise_h (s : State) (k : FatalCause) (n : Nat) : (s.raise k n).h = s.h := rfl
@[simp] theorem raise_l (s : State) (k : FatalCause) (n : Nat) : (s.raise k n).l = s.l := rfl
@[simp] theorem raise_sp (s : State) (k : FatalCause) (n : Nat) : (s.raise k n).sp = s.sp := rfl
@[simp] theorem raise_pc (s : State) (k : FatalCause) (n : Nat) : (s.raise k n).pc = s.pc := rfl
@[simp] theorem raise_flags (s : State) (k : FatalCause) (n : Nat) : (s.raise k n).flags = s.flags := rfl
@[simp] theorem raise_ie (s : State) (k : FatalCause) (n : Nat) : (s.raise k n).ie = s.ie := rfl
@[simp] theorem raise_icount (s : State) (k : FatalCause) (n : Nat) : (s.raise k n).icount = s.icount := rfl
@[simp] theorem raise_queue (s : State) (k : FatalCause) (n : Nat) : (s.raise k n).queue = s.queue := rfl
@[simp] theorem raise_inp (s : State) (k : FatalCause) (n : Nat) : (s.raise k n).inp = s.inp := rfl
@[simp] theorem raise_out (s : State) (k : FatalCause) (n : Nat) : (s.raise k n).out = s.out := rfl
@[simp] theorem raise_shift (s : State) (k : FatalCause) (n : Nat) : (s.raise k n).shift = s.shift := rfl
@[simp] theorem raise_mem (s : State) (k : FatalCause) (n : Nat) : (s.raise k n).mem = s.mem := rfl
@[simp] theorem raise_draws (s : State) (k : FatalCause) (n : Nat) : (s.raise k n).draws = s.draws := rfl

@[simp] theorem queueInterrupt_a (s : State) (v : BitVec 3) (n : Nat) : (s.queueInterrupt v n).a = s.a := by unfold State.queueInterrupt; split <;> rfl
@[simp] theorem queueInterrupt_b (s : State) (v : BitVec 3) (n : Nat) : (s.queueInterrupt v n).b = s.b := by unfold State.queueInterrupt; split <;> rfl
@[simp] theorem queueInterrupt_c (s : State) (v : BitVec 3) (n : Nat) : (s.queueInterrupt v n).c = s.c := by unfold State.queueInterrupt; split <;> rfl
@[simp] theorem queueInterrupt_d (s : State) (v : BitVec 3) (n : Nat) : (s.queueInterrupt v n).d = s.d := by unfold State.queueInterrupt; split <;> rfl
@[simp] theorem queueInterrupt_e (s : State) (v : BitVec 3) (n : Nat) : (s.queueInterrupt v n).e = s.e := by unfold State.queueInterrupt; split <;> rfl
@[simp] theorem queueInterrupt_h (s : State) (v : BitVec 3) (n : Nat) : (s.queueInterrupt v n).h = s.h := by unfold State.queueInterrupt; split <;> rfl
@[simp] theorem queueInterrupt_l (s : State) (v : BitVec 3) (n : Nat) : (s.queueInterrupt v n).l = s.l := by unfold State.queueInterrupt; split <;> rfl
@[simp] theorem queueInterrupt_sp (s : State) (v : BitVec 3) (n : Nat) : (s.queueInterrupt v n).sp = s.sp := by unfold State.queueInterrupt; split <;> rfl
@[simp] theorem queueInterrupt_pc (s : State) (v : BitVec 3) (n : Nat) : (s.queueInterrupt v n).pc = s.pc := by unfold State.queueInterrupt; split <;> rfl
@[simp] theorem queueInterrupt_flags (s : State) (v : BitVec 3) (n : Nat) : (s.queueInterrupt v n).flags = s.flags := by unfold State.queueInterrupt; split <;> rfl
@[simp] theorem queueInterrupt_ie (s : State) (v : BitVec 3) (n : Nat) : (s.queueInterrupt v n).ie = s.ie := by unfold State.queueInterrupt; split <;> rfl
@[simp] theorem queueInterrupt_icount (s : State) (v : BitVec 3) (n : Nat) : (s.queueInterrupt v n).icount = s.icount := by unfold State.queueInterrupt; split <;> rfl
@[simp] theorem queueInterrupt_inp (s : State) (v : BitVec 3) (n : Nat) : (s.queueInterrupt v n).inp = s.inp := by unfold State.queueInterrupt; split <;> rfl
@[simp] theorem queueInterrupt_out (s : State) (v : BitVec 3) (n : Nat) : (s.queueInterrupt v n).out = s.out := by unfold State.queueInterrupt; split <;> rfl
@[simp] theorem queueInterrupt_shift (s : State) (v : BitVec 3) (n : Nat) : (s.queueInterrupt v n).shift = s.shift := by unfold State.queueInterrupt; split <;> rfl
@[simp] theorem queueInterrupt_mem (s : State) (v : BitVec 3) (n : Nat) : (s.queueInterrupt v n).mem = s.mem := by unfold State.queueInterrupt; split <;> rfl
@[simp] theorem queueInterrupt_runState (s : State) (v : BitVec 3) (n : Nat) : (s.queueInterrupt v n).runState = s.runState := by unfold State.queueInterrupt; split <;> rfl
@[simp] theorem queueInterrupt_fault (s : State) (v : BitVec 3) (n : Nat) : (s.queueInterrupt v n).fault = s.fault := by unfold State.queueInterrupt; split <;> rfl
@[simp] theorem queueInterrupt_draws (s : State) (v : BitVec 3) (n : Nat) : (s.queueInterrupt v n).draws = s.draws := by unfold State.queueInterrupt; split <;> rfl

@[simp] theorem afterFetch_a (s : State) : (s.afterFetch).a = s.a := rfl
@[simp] theorem afterFetch_b (s : State) : (s.afterFetch).b = s.b := rfl
@[simp] theorem afterFetch_c (s : State) : (s.afterFetch).c = s.c := rfl
@[simp] theorem afterFetch_d (s : State) : (s.afterFetch).d = s.d := rfl
@[simp] theorem afterFetch_e (s : State) : (s.afterFetch).e = s.e := rfl
@[simp] theorem afterFetch_h (s : State) : (s.afterFetch).h = s.h := rfl
@[simp] theorem afterFetch_l (s : State) : (s.afterFetch).l = s.l := rfl
@[simp] theorem afterFetch_sp (s : State) : (s.afterFetch).sp = s.sp := rfl
@[simp] theorem afterFetch_flags (s : State) : (s.afterFetch).flags = s.flags := rfl
@[simp] theorem afterFetch_ie (s : State) : (s.afterFetch).ie = s.ie := rfl
@[simp] theorem afterFetch_queue (s : State) : (s.afterFetch).queue = s.queue := rfl
@[simp] theorem afterFetch_inp (s : State) : (s.afterFetch).inp = s.inp := rfl
@[simp] theorem afterFetch_out (s : State) : (s.afterFetch).out = s.out := rfl
@[simp] theorem afterFetch_shift (s : State) : (s.afterFetch).shift = s.shift := rfl
@[simp] theorem afterFetch_mem (s : State) : (s.afterFetch).mem = s.mem := rfl
@[simp] theorem afterFetch_runState (s : State) : (s.afterFetch).runState = s.runState := rfl
@[simp] theorem afterFetch_fault (s : State) : (s.afterFetch).fault = s.fault := rfl
@[simp] theorem afterFetch_draws (s : State) : (s.afterFetch).draws = s.draws := rfl

@[simp] theorem afterDraw_a (s : State) : (s.afterDraw).a = s.a := rfl
@[simp] theorem afterDraw_b (s : State) : (s.afterDraw).b = s.b := rfl
@[simp] theorem afterDraw_c (s : State) : (s.afterDraw).c = s.c := rfl
@[simp] theorem afterDraw_d (s : State) : (s.afterDraw).d = s.d := rfl
@[simp] theorem afterDraw_e (s : State) : (s.afterDraw).e = s.e := rfl
@[simp] theorem afterDraw_h (s : State) : (s.afterDraw).h = s.h := rfl
@[simp] theorem afterDraw_l (s : State) : (s.afterDraw).l = s.l := rfl
@[simp] theorem afterDraw_sp (s : State) : (s.afterDraw).sp = s.sp := rfl
@[simp] theorem afterDraw_pc (s : State) : (s.afterDraw).pc = s.pc := rfl
@[simp] theorem afterDraw_flags (s : State) : (s.afterDraw).flags = s.flags := rfl
@[simp] theorem afterDraw_ie (s : State) : (s.afterDraw).ie = s.ie := rfl
@[simp] theorem afterDraw_icount (s : State) : (s.afterDraw).icount = s.icount := rfl
@[simp] theorem afterDraw_queue (s : State) : (s.afterDraw).queue = s.queue := rfl
@[simp] theorem afterDraw_inp (s : State) : (s.afterDraw).inp = s.inp := rfl
@[simp] theorem afterDraw_out (s : State) : (s.afterDraw).out = s.out := rfl
@[simp] theorem afterDraw_shift (s : State) : (s.afterDraw).shift = s.shift := rfl
@[simp] theorem afterDraw_mem (s : State) : (s.afterDraw).mem = s.mem := rfl
@[simp] theorem afterDraw_runState (s : State) : (s.afterDraw).runState = s.runState := rfl
@[simp] theorem afterDraw_fault (s : State) : (s.afterDraw).fault = s.fault := rfl

@[simp] theorem returnFromStack_a (s : State) : (s.returnFromStack).a = s.a := rfl
@[simp] theorem returnFromStack_b (s : State) : (s.returnFromStack).b = s.b := rfl
@[simp] theorem returnFromStack_c (s : State) : (s.returnFromStack).c = s.c := rfl
@[simp] theorem returnFromStack_d (s : State) : (s.returnFromStack).d = s.d := rfl
@[simp] theorem returnFromStack_e (s : State) : (s.returnFromStack).e = s.e := rfl
@[simp] theorem returnFromStack_h (s : State) : (s.returnFromStack).h = s.h := rfl
@[simp] theorem returnFromStack_l (s : State) : (s.returnFromStack).l = s.l := rfl
@[simp] theorem returnFromStack_flags (s : State) : (s.returnFromStack).flags = s.flags := rfl
@[simp] theorem returnFromStack_ie (s : State) : (s.returnFromStack).ie = s.ie := rfl
@[simp] theorem returnFromStack_icount (s : State) : (s.returnFromStack).icount = s.icount := rfl
@[simp] theorem returnFromStack_queue (s : State) : (s.returnFromStack).queue = s.queue := rfl
@[simp] theorem returnFromStack_inp (s : State) : (s.returnFromStack).inp = s.inp := rfl
@[simp] theorem returnFromStack_out (s : State) : (s.returnFromStack).out = s.out := rfl
@[simp] theorem returnFromStack_shift (s : State) : (s.returnFromStack).shift = s.shift := rfl
@[simp] theorem returnFromStack_mem (s : State) : (s.returnFromStack).mem = s.mem := rfl
@[simp] theorem returnFromStack_runState (s : State) : (s.returnFromStack).runState = s.runState := rfl
@[simp] theorem returnFromStack_fault (s : State) : (s.returnFromStack).fault = s.fault := rfl
@[simp] theorem returnFromStack_draws (s : State) : (s.returnFromStack).draws = s.draws := rfl

@[simp] theorem callTo_a (s : State) (x t : Word) : (s.callTo x t).a = s.a := rfl
@[simp] theorem callTo_b (s : State) (x t : Word) : (s.callTo x t).b = s.b := rfl
@[simp] theorem callTo_c (s : State) (x t : Word) : (s.callTo x t).c = s.c := rfl
@[simp] theorem callTo_d (s : State) (x t : Word) : (s.callTo x t).d = s.d := rfl
@[simp] theorem callTo_e (s : State) (x t : Word) : (s.callTo x t).e = s.e := rfl
@[simp] theorem callTo_h (s : State) (x t : Word) : (s.callTo x t).h = s.h := rfl
@[simp] theorem callTo_l (s : State) (x t : Word) : (s.callTo x t).l = s.l := rfl
@[simp] theorem callTo_flags (s : State) (x t : Word) : (s.callTo x t).flags = s.flags := rfl
@[simp] theorem callTo_ie (s : State) (x t : Word) : (s.callTo x t).ie = s.ie := rfl
@[simp] theorem callTo_icount (s : State) (x t : Word) : (s.callTo x t).icount = s.icount := rfl
@[simp] theorem callTo_queue (s : State) (x t : Word) : (s.callTo x t).queue = s.queue := rfl
@[simp] theorem callTo_inp (s : State) (x t : Word) : (s.callTo x t).inp = s.inp := rfl
@[simp] theorem callTo_out (s : State) (x t : Word) : (s.callTo x t).out = s.out := rfl
@[simp] theorem callTo_shift (s : State) (x t : Word) : (s.callTo x t).shift = s.shift := rfl
@[simp] theorem callTo_runState (s : State) (x t : Word) : (s.callTo x t).runState = s.runState := rfl
@[simp] theorem callTo_fault (s : State) (x t : Word) : (s.callTo x t).fault = s.fault := rfl
@[simp] theorem callTo_draws (s : State) (x t : Word) : (s.callTo x t).draws = s.draws := rfl

@[simp] theorem enterInterrupt_a (s : State) (cfg : Config) (v : BitVec 3) : (s.enterInterrupt cfg v).a = s.a := rfl
@[simp] theorem enterInterrupt_b (s : State) (cfg : Config) (v : BitVec 3) : (s.enterInterrupt cfg v).b = s.b := rfl
@[simp] theorem enterInterrupt_c (s : State) (cfg : Config) (v : BitVec 3) : (s.enterInterrupt cfg v).c = s.c := rfl
@[simp] theorem enterInterrupt_d (s : State) (cfg : Config) (v : BitVec 3) : (s.enterInterrupt cfg v).d = s.d := rfl
@[simp] theorem enterInterrupt_e (s : State) (cfg : Config) (v : BitVec 3) : (s.enterInterrupt cfg v).e = s.e := rfl
@[simp] theorem enterInterrupt_h (s : State) (cfg : Config) (v : BitVec 3) : (s.enterInterrupt cfg v).h = s.h := rfl
@[simp] theorem enterInterrupt_l (s : State) (cfg : Config) (v : BitVec 3) : (s.enterInterrupt cfg v).l = s.l := rfl
@[simp] theorem enterInterrupt_flags (s : State) (cfg : Config) (v : BitVec 3) : (s.enterInterrupt cfg v).flags = s.flags := rfl
@[simp] theorem enterInterrupt_icount (s : State) (cfg : Config) (v : BitVec 3) : (s.enterInterrupt cfg v).icount = s.icount := rfl
@[simp] theorem enterInterrupt_inp (s : State) (cfg : Config) (v : BitVec 3) : (s.enterInterrupt cfg v).inp = s.inp := rfl
@[simp] theorem enterInterrupt_out (s : State) (cfg : Config) (v : BitVec 3) : (s.enterInterrupt cfg v).out = s.out := rfl
@[simp] theorem enterInterrupt_shift (s : State) (cfg : Config) (v : BitVec 3) : (s.enterInterrupt cfg v).shift = s.shift := rfl
@[simp] theorem enterInterrupt_runState (s : State) (cfg : Config) (v : BitVec 3) : (s.enterInterrupt cfg v).runState = s.runState := rfl
@[simp] theorem enterInterrupt_fault (s : State) (cfg : Config) (v : BitVec 3) : (s.enterInterrupt cfg v).fault = s.fault := rfl
@[simp] theorem enterInterrupt_draws (s : State) (cfg : Config) (v : BitVec 3) : (s.enterInterrupt cfg v).draws = s.draws := rfl

/-! ### Fields an update writes -/

@[simp] theorem advance_pc (s : State) (n : Word) : (s.advance n).pc = s.pc + n := rfl
@[simp] theorem jump_pc (s : State) (t : Word) : (s.jump t).pc = t := rfl
@[simp] theorem afterFetch_pc (s : State) : s.afterFetch.pc = s.pc + 1 := rfl
@[simp] theorem afterFetch_icount (s : State) : s.afterFetch.icount = s.icount + 1 := rfl
@[simp] theorem afterDraw_draws (s : State) : s.afterDraw.draws = s.draws + 1 := rfl
@[simp] theorem dropTop_sp (s : State) : s.dropTop.sp = s.sp + 2 := rfl
@[simp] theorem push16_sp (s : State) (v : Word) : (s.push16 v).sp = s.sp - 2 := rfl
@[simp] theorem returnFromStack_sp (s : State) : s.returnFromStack.sp = s.sp + 2 := rfl
@[simp] theorem returnFromStack_pc (s : State) : s.returnFromStack.pc = s.top16 := rfl
@[simp] theorem callTo_sp (s : State) (x t : Word) : (s.callTo x t).sp = s.sp - 2 := rfl
@[simp] theorem callTo_pc (s : State) (x t : Word) : (s.callTo x t).pc = t := rfl
@[simp] theorem enterInterrupt_sp (s : State) (cfg : Config) (v : BitVec 3) :
    (s.enterInterrupt cfg v).sp = s.sp - 2 := rfl
@[simp] theorem enterInterrupt_pc (s : State) (cfg : Config) (v : BitVec 3) :
    (s.enterInterrupt cfg v).pc = vectorAddress cfg v := rfl
@[simp] theorem enterInterrupt_ie (s : State) (cfg : Config) (v : BitVec 3) :
    (s.enterInterrupt cfg v).ie = (s.ie && !cfg.intEntryClearsIE) := rfl
@[simp] theorem enterInterrupt_queue (s : State) (cfg : Config) (v : BitVec 3) :
    (s.enterInterrupt cfg v).queue = s.queue.tail := rfl
@[simp] theorem raise_runState (s : State) (k : FatalCause) (n : Nat) : (s.raise k n).runState = .fatal := rfl
@[simp] theorem raise_fault (s : State) (k : FatalCause) (n : Nat) :
    (s.raise k n).fault = some { cause := k, pc := s.pc - 1, info := n } := rfl

theorem queueInterrupt_queue (s : State) (v : BitVec 3) (n : Nat) :
    (s.queueInterrupt v n).queue
      = if s.ie then s.queue ++ [{ vector := v, target := s.icount + n }] else s.queue := by
  unfold State.queueInterrupt; split <;> rfl

/-! ### Registers and pairs -/

/-- Reading a register after a register write. -/
theorem getReg_setReg (s : State) (r q : Reg) (v : Byte) :
    (s.setReg r v).getReg q = if q = r then v else s.getReg q := by
  cases r <;> cases q <;> rfl

/-- The bits of a word from its bytes. -/
theorem getLsbD_joinBytes (x y : Byte) (i : Nat) :
    (joinBytes x y).getLsbD i = if i < 8 then y.getLsbD i else x.getLsbD (i - 8) :=
  BitVec.getLsbD_append

@[simp] theorem hiByte_joinBytes (x y : Byte) : hiByte (joinBytes x y) = x := by
  refine BitVec.eq_of_getLsbD_eq fun i hi => ?_
  rw [hiByte, BitVec.getLsbD_extractLsb', getLsbD_joinBytes]
  simp [hi]

@[simp] theorem loByte_joinBytes (x y : Byte) : loByte (joinBytes x y) = y := by
  refine BitVec.eq_of_getLsbD_eq fun i hi => ?_
  rw [loByte, BitVec.getLsbD_extractLsb', getLsbD_joinBytes]
  simp [hi]

@[simp] theorem joinBytes_hiByte_loByte (v : Word) : joinBytes (hiByte v) (loByte v) = v := by
  refine BitVec.eq_of_getLsbD_eq fun i hi => ?_
  rw [getLsbD_joinBytes, hiByte, loByte, BitVec.getLsbD_extractLsb', BitVec.getLsbD_extractLsb']
  split
  · next h => simp [h]
  · next h => simp [show i - 8 < 8 by omega, show 8 + (i - 8) = i by omega]

/-- The value of a 16-bit word from its bytes (20_memory.md R52). -/
theorem joinBytes_toNat (x y : Byte) : (joinBytes x y).toNat = 256 * x.toNat + y.toNat := by
  simp only [joinBytes, BitVec.toNat_append]
  rw [Nat.shiftLeft_eq, Nat.or_comm, Nat.mul_comm, Nat.or_comm, ← Nat.two_pow_add_eq_or_of_lt y.isLt]

/-- A pair reads back what was written to it. -/
@[simp] theorem getPair_setPair (s : State) (rp : RegPair) (v : Word) : (s.setPair rp v).getPair rp = v := by
  cases rp <;> simp [State.getPair, State.setPair]

end Sys2Proof.Machine
end

