-- ==== Sys2Proof/Laws/Decode.lean ====
section
/-! SUPPORT. What `decodeBytes` does with one, two and three bytes, said once (spec/30_encoding.md R87). -/

namespace Sys2Proof

/-- A one-byte instruction and the bytes after it. -/
theorem decodeBytes_one {op : Byte} (rest : List Byte) (h : opcodeLength op = 1) :
    decodeBytes (op :: rest) = .ok (decode op 0 0, rest) := by
  simp only [decodeBytes, h]

/-- A two-byte instruction and the bytes after it. -/
theorem decodeBytes_two {op : Byte} (b2 : Byte) (rest : List Byte) (h : opcodeLength op = 2) :
    decodeBytes (op :: b2 :: rest) = .ok (decode op b2 0, rest) := by
  simp only [decodeBytes, h]

/-- A three-byte instruction and the bytes after it. -/
theorem decodeBytes_three {op : Byte} (b2 b3 : Byte) (rest : List Byte) (h : opcodeLength op = 3) :
    decodeBytes (op :: b2 :: b3 :: rest) = .ok (decode op b2 b3, rest) := by
  simp only [decodeBytes, h]

/-- Every first byte begins an instruction of one, two or three bytes. -/
theorem opcodeLength_cases (op : Byte) : opcodeLength op = 1 ∨ opcodeLength op = 2 ∨ opcodeLength op = 3 := by
  unfold opcodeLength
  split
  · exact .inr (.inr rfl)
  · split
    · exact .inr (.inl rfl)
    · exact .inl rfl

end Sys2Proof
end

