-- ==== Sys2Proof/Laws/Memory.lean ====
section
/-! SUPPORT. The laws of the byte array: read after write, and that every write keeps the canonical form. -/

namespace Sys2Proof.Machine

/-- Nothing below the first index of a canonical list is listed. -/
theorem memGet_below {m : List Host.Cell} {lo i : Nat} (h : memWfFrom lo m = true) (hi : i < lo) :
    memGet m i = memFill := by
  induction m generalizing lo with
  | nil => rfl
  | cons c rest ih =>
    obtain ⟨j, w⟩ := c
    simp only [memWfFrom, Bool.and_eq_true, decide_eq_true_eq] at h
    simp only [memGet]
    rw [if_neg (by omega)]
    exact ih h.2 (by omega)

/-- A canonical form from an index is one from any lower index. -/
theorem memWfFrom_mono {m : List Host.Cell} {lo lo' : Nat} (h : memWfFrom lo m = true) (hl : lo' ≤ lo) :
    memWfFrom lo' m = true := by
  cases m with
  | nil => rfl
  | cons c rest =>
    simp only [memWfFrom, Bool.and_eq_true, decide_eq_true_eq] at h ⊢
    exact ⟨⟨⟨by omega, h.1.1.2⟩, h.1.2⟩, h.2⟩

/-- Reading any index after a write, in a canonical array. -/
theorem memGet_memSet {m : List Host.Cell} {lo : Nat} (h : memWfFrom lo m = true) (i k : Nat) (v : Byte) :
    memGet (memSet m i v) k = if k = i then v else memGet m k := by
  induction m generalizing lo with
  | nil =>
    simp only [memSet]
    split
    · next hv => split <;> simp [memGet, hv]
    · simp [memGet]
  | cons c rest ih =>
    obtain ⟨j, w⟩ := c
    simp only [memWfFrom, Bool.and_eq_true, decide_eq_true_eq] at h
    have hrest := ih h.2
    simp only [memSet]
    by_cases hij : i < j
    · simp only [if_pos hij]
      by_cases hv : v = memFill
      · simp only [if_pos hv]
        by_cases hk : k = i
        · subst hk
          simp only [memGet, if_neg (show ¬ k = j by omega), if_true]
          rw [memGet_below h.2 (by omega), hv]
        · simp [hk]
      · simp only [if_neg hv]
        simp [memGet]
    · simp only [if_neg hij]
      by_cases hij' : i = j
      · subst hij'
        simp only [if_true]
        by_cases hv : v = memFill
        · simp only [if_pos hv]
          by_cases hk : k = i
          · subst hk
            rw [memGet_below h.2 (by omega), if_pos rfl, hv]
          · simp [memGet, hk]
        · simp only [if_neg hv, memGet]
          split <;> simp_all
      · simp only [if_neg hij', memGet, hrest]
        split
        · next hk => subst hk; rw [if_neg (by omega)]
        · rfl

/-- A write keeps the canonical form. -/
theorem memSet_wfFrom {m : List Host.Cell} {lo : Nat} (h : memWfFrom lo m = true) {i : Nat} (hlo : lo ≤ i)
    (hi : i < config.memSize) (v : Byte) : memWfFrom lo (memSet m i v) = true := by
  induction m generalizing lo with
  | nil =>
    simp only [memSet]
    split
    · rfl
    · next hv =>
      simp only [memWfFrom, Bool.and_eq_true, decide_eq_true_eq, and_true]
      exact ⟨⟨hlo, hi⟩, hv⟩
  | cons c rest ih =>
    obtain ⟨j, w⟩ := c
    have h0 := h
    simp only [memWfFrom, Bool.and_eq_true, decide_eq_true_eq] at h
    simp only [memSet]
    split
    · next hij =>
      split
      · exact h0
      · next hv =>
        simp only [memWfFrom, Bool.and_eq_true, decide_eq_true_eq]
        exact ⟨⟨⟨hlo, hi⟩, hv⟩, ⟨⟨by omega, h.1.1.2⟩, h.1.2⟩, h.2⟩
    · split
      · next hij =>
        subst hij
        split
        · exact memWfFrom_mono h.2 (by omega)
        · next hv =>
          simp only [memWfFrom, Bool.and_eq_true, decide_eq_true_eq]
          exact ⟨⟨⟨hlo, hi⟩, hv⟩, h.2⟩
      · next hij hne =>
        simp only [memWfFrom, Bool.and_eq_true, decide_eq_true_eq]
        exact ⟨h.1, ih h.2 (by omega)⟩

/-- Consecutive writes inside the array keep the canonical form. -/
theorem memSetAll_wf {m : List Host.Cell} (h : Memory.wf m = true) (i : Nat) (data : List Byte)
    (hi : i + data.length ≤ config.memSize) : Memory.wf (memSetAll m i data) = true := by
  induction data generalizing m i with
  | nil => exact h
  | cons v rest ih =>
    simp only [List.length_cons] at hi
    exact ih (memSet_wfFrom h (Nat.zero_le i) (by omega) v) (i + 1) (by omega)

/-- Reading any index after consecutive writes. -/
theorem memGet_memSetAll {m : List Host.Cell} (h : Memory.wf m = true) (i k : Nat) (data : List Byte)
    (hi : i + data.length ≤ config.memSize) :
    memGet (memSetAll m i data) k
      = if i ≤ k ∧ k < i + data.length then data.getD (k - i) 0 else memGet m k := by
  induction data generalizing m i with
  | nil =>
    rw [if_neg (by simp only [List.length_nil]; omega)]; rfl
  | cons v rest ih =>
    simp only [List.length_cons] at hi
    simp only [memSetAll]
    rw [ih (memSet_wfFrom h (Nat.zero_le i) (by omega) v) (i + 1) (by omega), memGet_memSet h]
    simp only [List.length_cons]
    by_cases h1 : k = i
    · subst h1
      rw [if_neg (by omega), if_pos rfl, if_pos (by omega), Nat.sub_self]; rfl
    · by_cases h2 : i + 1 ≤ k ∧ k < i + 1 + rest.length
      · rw [if_pos h2, if_pos (by omega), show k - i = (k - (i + 1)) + 1 by omega]; rfl
      · rw [if_neg h2, if_neg h1, if_neg (by omega)]

/-- Every address reaches an index inside the array (20_memory.md R51). -/
theorem memIndex_lt (x : Word) : memIndex x < config.memSize := Nat.mod_lt _ (by decide)

/-- A byte store keeps the canonical form. -/
theorem memWrite_wf {s : State} (h : Memory.wf s.mem = true) (x : Word) (v : Byte) :
    Memory.wf (s.memWrite x v).mem = true :=
  memSet_wfFrom h (Nat.zero_le _) (memIndex_lt x) v

/-- A 16-bit store keeps the canonical form. -/
theorem memWrite16_wf {s : State} (h : Memory.wf s.mem = true) (x v : Word) :
    Memory.wf (s.memWrite16 x v).mem = true :=
  memWrite_wf (memWrite_wf h x _) _ _

/-- A push keeps the canonical form. -/
theorem push16_wf {s : State} (h : Memory.wf s.mem = true) (v : Word) : Memory.wf (s.push16 v).mem = true :=
  memWrite16_wf (s := { s with sp := s.sp - 2 }) h _ v

/-- Reading any address after a byte store (20_memory.md R56). -/
theorem memRead_memWrite {s : State} (h : Memory.wf s.mem = true) (x y : Word) (v : Byte) :
    (s.memWrite x v).memRead y = if memIndex y = memIndex x then v else s.memRead y :=
  memGet_memSet h _ _ v

/-- Two neighbouring addresses never reach the same index (44_stack_control.md R211). -/
theorem memIndex_succ_ne (x : Word) : memIndex (x + 1) ≠ memIndex x := by
  have := x.isLt
  have h1 : (1 : Word).toNat = 1 := rfl
  simp only [memIndex, config_memSize, BitVec.toNat_add, h1]
  omega

/-- Reading any address after a 16-bit store (20_memory.md R52). -/
theorem memRead_memWrite16 {s : State} (h : Memory.wf s.mem = true) (x y v : Word) :
    (s.memWrite16 x v).memRead y
      = if memIndex y = memIndex (x + 1) then hiByte v
        else if memIndex y = memIndex x then loByte v else s.memRead y := by
  rw [State.memWrite16, memRead_memWrite (memWrite_wf h x _), memRead_memWrite h]

/-- Reading any address after a push (44_stack_control.md R210). -/
theorem memRead_push16 {s : State} (h : Memory.wf s.mem = true) (y v : Word) :
    (s.push16 v).memRead y
      = if memIndex y = memIndex (s.sp - 2 + 1) then hiByte v
        else if memIndex y = memIndex (s.sp - 2) then loByte v else s.memRead y :=
  memRead_memWrite16 (s := { s with sp := s.sp - 2 }) h _ _ _

end Sys2Proof.Machine
end

