-- ==== Sys2Proof/Laws/Operands.lean ====
section
/-! SUPPORT. Everything the shared register, pair and ALU operations do, said once over natural numbers, for statements
that speak so. -/

namespace Sys2Proof.Machine

/-! ### Registers and pairs -/

/-- A register write touches the seven general registers alone. -/
theorem setReg_eq_regsFrom (s : State) (r : Reg) (v : Byte) : s.setReg r v = s.regsFrom (s.setReg r v) := by
  cases r <;> rfl

/-- A register write writes that register and no other. -/
theorem writesReg_setReg (s : State) (r : Reg) (v : Byte) : State.WritesReg s (s.setReg r v) r v := by
  refine ⟨?_, fun q hq => ?_⟩ <;> simp [getReg_setReg, *]

/-- A pair write writes its two halves, or SP, and no other register. -/
theorem writesPair_setPair (s : State) (rp : RegPair) (v : Word) : State.WritesPair s (s.setPair rp v) rp v := by
  refine ⟨getPair_setPair .., fun q hq => ?_, fun h => ?_⟩
  · cases rp <;> cases q <;> first | rfl | exact absurd (by decide) hq
  · cases rp <;> first | rfl | exact absurd rfl h

/-- A byte store writes the one byte its address reaches. -/
theorem writesByte_memWrite {s : State} (h : Memory.wf s.mem = true) (x : Word) (v : Byte) :
    State.WritesByte s (s.memWrite x v) x v := fun y => memRead_memWrite h x y v

/-- A 16-bit store writes the two bytes its address reaches. -/
theorem writesWord_memWrite16 {s : State} (h : Memory.wf s.mem = true) (x v : Word) :
    State.WritesWord s (s.memWrite16 x v) x v := fun y => memRead_memWrite16 h x y v

/-- A push writes the two bytes below SP (44_stack_control.md R210). -/
theorem writesWord_push16 {s : State} (h : Memory.wf s.mem = true) (v : Word) :
    State.WritesWord s (s.push16 v) (s.sp - 2) v := fun y => memRead_push16 h y v

/-! ### Flags and the ALU -/

/-- The five flags of a result given as a natural number (10_state.md R26). -/
theorem flags_ofNat (t : Nat) (cy ac : Bool) :
    (AluResult.mk (BitVec.ofNat 8 t) cy ac).flags = resultFlags (t % 256) cy ac := by
  simp only [AluResult.flags, resultFlags, BitVec.msb_eq_decide]
  congr 1
  · exact decide_eq_decide.2 (by rw [← BitVec.toNat_inj]; simp)
  · exact congrArg parity (by rw [← BitVec.toNat_inj]; simp)

/-- The flags of an increment or decrement are those of its result with CY as it was. -/
theorem flagsKeepCY_eq (r : AluResult) (f : Flags) : r.flagsKeepCY f = { r.flags with cy := f.cy } := rfl

/-- The flags of a logic result (42_logical.md R160). -/
theorem logicFlags_eq (r : Byte) (ac : Bool) : logicFlags r ac = resultFlags r.toNat false ac := by
  have h := flags_ofNat r.toNat false ac
  rw [Nat.mod_eq_of_lt r.isLt] at h
  rw [← h]
  simp [logicFlags, AluResult.flags]

/-- `add8` over natural numbers (41_arithmetic.md R130). -/
theorem add8_eq (a b : Byte) (c : Bool) :
    add8 a b c
      = { res := BitVec.ofNat 8 (a.toNat + b.toNat + c.toNat)
          cy := decide (255 < a.toNat + b.toNat + c.toNat)
          ac := decide (15 < a.toNat % 16 + b.toNat % 16 + c.toNat) } := rfl

/-- `sub8` over natural numbers (41_arithmetic.md R131). -/
theorem sub8_eq (a b : Byte) (c : Bool) :
    sub8 a b c
      = { res := BitVec.ofNat 8 ((256 + a.toNat - b.toNat + 256 - c.toNat) % 256)
          cy := decide (a.toNat < b.toNat + c.toNat)
          ac := decide (a.toNat % 16 < b.toNat % 16 + c.toNat) } := by
  have ha := a.isLt
  have hb := b.isLt
  have hc : c.toNat < 2 := by cases c <;> decide
  simp only [sub8]
  congr 1
  · rw [← BitVec.toNat_inj]
    simp only [BitVec.toNat_ofInt, BitVec.toNat_ofNat]
    omega
  · exact decide_eq_decide.2 (by omega)
  · exact decide_eq_decide.2 (by omega)

/-! ### Ports -/

/-- Two bytes are equal exactly when their values are. -/
theorem byte_eq_iff (x y : Byte) : x = y ↔ x.toNat = y.toNat := BitVec.toNat_inj.symm

/-- `PortRead` gives a value exactly for the ports 0 to 3 (45_io_ports.md R231, R232). -/
theorem portRead_eq_none {s : State} {p : Byte} : s.portRead p = none ↔ 4 ≤ p.toNat := by
  simp only [State.portRead, config_portShiftRead, byte_eq_iff]
  repeat' split
  all_goals simp_all
  omega

/-- `PortWrite` has an effect exactly for the ports 0 to 6 (45_io_ports.md R231, R233). -/
theorem portWrite_eq_none {s : State} {p v : Byte} : s.portWrite p v = none ↔ 7 ≤ p.toNat := by
  simp only [State.portWrite, config_portShiftData, config_portShiftAmount, byte_eq_iff]
  repeat' split
  all_goals simp_all
  omega

/-- Everything `PortWrite` can do (45_io_ports.md R233). -/
theorem portWrite_cases {s t : State} {p v : Byte} (h : s.portWrite p v = some t) :
    (p = 4 ∧ t = s.loadShift v)
      ∨ (p = 0 ∧ t = { s with out := { s.out with out0 := v } })
      ∨ (p = 1 ∧ t = { s with out := { s.out with out1 := v } })
      ∨ (p = 2 ∧ t = { s with out := { s.out with out2 := v } })
      ∨ (p = 3 ∧ t = { s with out := { s.out with out3 := v } })
      ∨ (p = 5 ∧ t = { s with out := { s.out with out5 := v } })
      ∨ (p = 6 ∧ t = { s with out := { s.out with out6 := v } }) := by
  simp only [State.portWrite, config_portShiftData, config_portShiftAmount] at h
  split at h
  · next hp => cases h; exact .inl ⟨hp, rfl⟩
  split at h
  · next hp => cases h; exact .inr (.inl ⟨hp, rfl⟩)
  split at h
  · next hp => cases h; exact .inr (.inr (.inl ⟨hp, rfl⟩))
  split at h
  · next hp => cases h; exact .inr (.inr (.inr (.inl ⟨hp, rfl⟩)))
  split at h
  · next hp => cases h; exact .inr (.inr (.inr (.inr (.inl ⟨hp, rfl⟩))))
  split at h
  · next hp => cases h; exact .inr (.inr (.inr (.inr (.inr (.inl ⟨hp, rfl⟩)))))
  split at h
  · next hp => cases h; exact .inr (.inr (.inr (.inr (.inr (.inr ⟨hp, rfl⟩)))))
  cases h

/-- The bits of the shift window (45_io_ports.md R232). -/
theorem getLsbD_shiftWindow (s : State) {i : Nat} (hi : i < 8) :
    s.shiftWindow.getLsbD i = s.shift.getLsbD (8 - s.out.out2.toNat % 8 + i) := by
  simp only [State.shiftWindow, BitVec.getLsbD_ofNat, hi, decide_true, Bool.true_and, Nat.testBit_shiftRight,
    BitVec.testBit_toNat]

end Sys2Proof.Machine
end

