-- ==== Sys2Proof/Laws/Step.lean ====
section
/-! SUPPORT. What a Step can do, said once, and the invariant over the parts it speaks of. -/

namespace Sys2Proof.Machine

/-- Every instruction answers a next state (no arm of `exec` faults or refuses). -/
theorem exec_next (i : Instr) (s : State) : ∃ t, exec i s = .next t := by
  cases i
  case inPort p =>
    simp only [exec, execIn]
    split <;> exact ⟨_, rfl⟩
  case outPort p =>
    simp only [exec, execOut]
    split <;> exact ⟨_, rfl⟩
  all_goals exact ⟨_, rfl⟩

/-- What an instruction does to run_state and the fatal record: nothing, halt, or one of the two fatal conditions a Step
can take (60_exceptions.md R251, R252). -/
theorem exec_fault {i : Instr} {s t : State} (h : exec i s = .next t) :
    (t.fault = s.fault ∧ (t.runState = s.runState ∨ (i = .hlt ∧ t.runState = .halted)) ∧ unimplementedByte i = none)
      ∨ (∃ op, unimplementedByte i = some op ∧ t = s.raiseUnrecognized op)
      ∨ (∃ p : Byte, 4 ≤ p.toNat ∧ t = s.raisePortRange p ∧ unimplementedByte i = none) := by
  cases i
  case inPort p =>
    simp only [exec, execIn] at h
    split at h
    · cases h; exact .inl ⟨rfl, .inl rfl, rfl⟩
    · next hp => cases h; exact .inr (.inr ⟨p, portRead_eq_none.1 hp, rfl, rfl⟩)
  case outPort p =>
    simp only [exec, execOut] at h
    split at h
    · next u hu =>
      cases h
      left
      rcases portWrite_cases hu with ⟨rfl, rfl⟩ | ⟨rfl, rfl⟩ | ⟨rfl, rfl⟩ | ⟨rfl, rfl⟩ | ⟨rfl, rfl⟩ | ⟨rfl, rfl⟩
        | ⟨rfl, rfl⟩ <;> exact ⟨rfl, .inl rfl, rfl⟩
    · next hp =>
      cases h
      have := portWrite_eq_none.1 hp
      exact .inr (.inr ⟨p, by omega, rfl, rfl⟩)
  case hlt => cases h; exact .inl ⟨rfl, .inr ⟨rfl, rfl⟩, rfl⟩
  case jcond => cases h; left; split <;> exact ⟨rfl, .inl rfl, rfl⟩
  case ccond => cases h; left; split <;> exact ⟨rfl, .inl rfl, rfl⟩
  case rcond => cases h; left; split <;> exact ⟨rfl, .inl rfl, rfl⟩
  all_goals cases h
  all_goals first
    | exact .inr (.inl ⟨_, rfl, rfl⟩)
    | exact .inl ⟨rfl, .inl rfl, rfl⟩
    | (left; simp [unimplementedByte])

/-- What an instruction does to the queue, IE, the count, `out[4]` and the form of memory: RST alone appends, EI and DI
alone write IE. -/
theorem exec_queue {i : Instr} {s t : State} (h : exec i s = .next t) :
    (t.queue = s.queue
        ∨ (∃ n, i = .rst n ∧ s.ie = true ∧ t.queue = s.queue ++ [{ vector := n, target := s.icount }]))
      ∧ (t.ie = s.ie ∨ (i = .ei ∧ t.ie = true) ∨ (i = .di ∧ t.ie = false))
      ∧ t.icount = s.icount ∧ t.out.out4 = s.out.out4 ∧ (Memory.wf s.mem = true → Memory.wf t.mem = true) := by
  cases i
  case inPort p =>
    simp only [exec, execIn] at h
    split at h <;> cases h <;> exact ⟨.inl rfl, .inl rfl, rfl, rfl, id⟩
  case outPort p =>
    simp only [exec, execOut] at h
    split at h
    · next u hu =>
      cases h
      rcases portWrite_cases hu with ⟨rfl, rfl⟩ | ⟨rfl, rfl⟩ | ⟨rfl, rfl⟩ | ⟨rfl, rfl⟩ | ⟨rfl, rfl⟩ | ⟨rfl, rfl⟩
        | ⟨rfl, rfl⟩ <;> exact ⟨.inl rfl, .inl rfl, rfl, rfl, id⟩
    · cases h; exact ⟨.inl rfl, .inl rfl, rfl, rfl, id⟩
  case jcond => cases h; split <;> exact ⟨.inl rfl, .inl rfl, rfl, rfl, id⟩
  case ccond =>
    cases h
    split
    · exact ⟨.inl rfl, .inl rfl, rfl, rfl, fun h => push16_wf h _⟩
    · exact ⟨.inl rfl, .inl rfl, rfl, rfl, id⟩
  case rcond => cases h; split <;> exact ⟨.inl rfl, .inl rfl, rfl, rfl, id⟩
  case rst n =>
    simp only [exec, execRst, State.queueInterrupt] at h
    cases h
    split
    · next hie => exact ⟨.inr ⟨n, rfl, hie, rfl⟩, .inl rfl, rfl, rfl, id⟩
    · exact ⟨.inl rfl, .inl rfl, rfl, rfl, id⟩
  all_goals cases h
  all_goals first
    | exact ⟨.inl rfl, .inl rfl, rfl, rfl, id⟩
    | exact ⟨.inl rfl, .inl rfl, rfl, rfl, fun h => memWrite_wf h _ _⟩
    | exact ⟨.inl rfl, .inl rfl, rfl, rfl, fun h => memWrite16_wf h _ _⟩
    | exact ⟨.inl rfl, .inl rfl, rfl, rfl, fun h => push16_wf h _⟩
    | exact ⟨.inl rfl, .inr (.inl ⟨rfl, rfl⟩), rfl, rfl, id⟩
    | exact ⟨.inl rfl, .inr (.inr ⟨rfl, rfl⟩), rfl, rfl, id⟩
    | (refine ⟨.inl ?_, .inl ?_, ?_, ?_, fun h => ?_⟩ <;> simp [*])

/-- A Step of a core that is not Running (10_state.md R35). -/
theorem step_stopped {s : State} (h : s.runState ≠ .running) : step s = .next s := by
  unfold step
  cases hr : s.runState <;> simp_all

/-- A Step of a Running core: the interrupt check, the fetch, the instruction (30_encoding.md R88). -/
theorem step_running {s : State} (h : s.runState = .running) :
    step s = exec ((s.serviceInterrupt config).instrAt (s.serviceInterrupt config).pc)
      (s.serviceInterrupt config).afterFetch := by
  unfold step
  rw [h]

/-- The check with no due request. -/
theorem serviceInterrupt_none {s : State} (cfg : Config) (h : s.dueRequest = none) :
    s.serviceInterrupt cfg = s := by
  unfold State.serviceInterrupt
  rw [h]

/-- The check with a due request. -/
theorem serviceInterrupt_some {s : State} {r : Request} (cfg : Config) (h : s.dueRequest = some r) :
    s.serviceInterrupt cfg = s.enterInterrupt cfg r.vector := by
  unfold State.serviceInterrupt
  rw [h]

/-- No request is due exactly when a head, with IE = 1, has a target still to come. -/
theorem dueRequest_eq_none {s : State} :
    s.dueRequest = none ↔ ∀ r q, s.queue = r :: q → s.ie = true → s.icount < r.target := by
  unfold State.dueRequest
  cases hq : s.queue with
  | nil => simp
  | cons r q => cases s.ie <;> simp

/-- A due request is the head, IE is 1 and its target is reached. -/
theorem dueRequest_eq_some {s : State} {r : Request} :
    s.dueRequest = some r ↔ s.ie = true ∧ r.target ≤ s.icount ∧ ∃ q, s.queue = r :: q := by
  unfold State.dueRequest
  cases hq : s.queue with
  | nil => simp
  | cons r' q =>
    simp only [Bool.and_eq_true, decide_eq_true_eq, List.cons.injEq, exists_and_left]
    constructor
    · intro h
      split at h
      · cases h; exact ⟨‹_ ∧ _›.1, ‹_ ∧ _›.2, rfl, q, rfl⟩
      · cases h
    · rintro ⟨h1, h2, rfl, _⟩
      rw [if_pos ⟨h1, h2⟩]

/-- What the interrupt check can do: nothing, or the entry of the head. -/
theorem serviceInterrupt_cases (s : State) (cfg : Config) :
    s.serviceInterrupt cfg = s
      ∨ ∃ r q, s.ie = true ∧ r.target ≤ s.icount ∧ s.queue = r :: q
        ∧ s.serviceInterrupt cfg = s.enterInterrupt cfg r.vector := by
  cases h : s.dueRequest with
  | none => exact .inl (serviceInterrupt_none cfg h)
  | some r =>
    obtain ⟨h1, h2, q, h3⟩ := dueRequest_eq_some.1 h
    exact .inr ⟨r, q, h1, h2, h3, serviceInterrupt_some cfg h⟩

@[simp] theorem serviceInterrupt_icount (s : State) (cfg : Config) :
    (s.serviceInterrupt cfg).icount = s.icount := by
  unfold State.serviceInterrupt; split <;> rfl

@[simp] theorem serviceInterrupt_runState (s : State) (cfg : Config) :
    (s.serviceInterrupt cfg).runState = s.runState := by
  unfold State.serviceInterrupt; split <;> rfl

@[simp] theorem serviceInterrupt_ie (s : State) : (s.serviceInterrupt config).ie = s.ie := by
  unfold State.serviceInterrupt; split <;> simp

/-- The invariant speaks of memory, the record, run_state and `out[4]` alone. -/
theorem State.Inv.of_parts {s t : State} (h : s.Inv) (hm : Memory.wf t.mem = true) (hf : t.fault = s.fault)
    (hr : t.runState = s.runState) (ho : t.out.out4 = s.out.out4) : t.Inv where
  memCanonical := hm
  recordIffFatal := by rw [hf, hr]; exact h.recordIffFatal
  recordInfo := by rw [hf]; exact h.recordInfo
  out4Untouched := ho.trans h.out4Untouched

/-- Taking a fatal condition whose info fits its cause keeps the invariant. -/
theorem State.Inv.raise {s : State} (h : s.Inv) {k : FatalCause} {n : Nat}
    (hn : (FaultRecord.mk k (s.pc - 1) n).InfoOk) : (s.raise k n).Inv where
  memCanonical := h.memCanonical
  recordIffFatal := by simp
  recordInfo := by
    intro r hr
    rw [raise_fault] at hr
    cases hr
    exact hn
  out4Untouched := h.out4Untouched

end Sys2Proof.Machine
end

