-- ==== Sys2Proof/Laws/Fetch.lean ====
section
/-! SUPPORT. What `withFetchWord` does: the next Step runs the word and nothing but what the fetch needs has changed. -/

namespace Sys2Proof.Machine

/-- A prepared state runs. -/
theorem prepareFetch_running (s : State) : s.prepareFetch.runState = .running := by
  unfold State.prepareFetch
  by_cases h : s.runState = .running
  · simp only [if_pos h]; split <;> exact h
  · simp only [if_neg h]; split <;> rfl

/-- Preparing a fetch touches no memory. -/
theorem prepareFetch_mem (s : State) : s.prepareFetch.mem = s.mem := by
  unfold State.prepareFetch
  by_cases h : s.runState = .running
  · simp only [if_pos h]; split <;> rfl
  · simp only [if_neg h]; split <;> rfl

/-- In a prepared state, no due entry pushes over the place the Step fetches from. -/
theorem prepareFetch_safe (s : State) :
    s.prepareFetch.dueRequest = none ∨ s.prepareFetch.pushHits s.prepareFetch.fetchAddress = false := by
  unfold State.prepareFetch
  generalize (if s.runState = .running then s else { s with runState := .running, fault := none }) = u
  by_cases h : (u.dueRequest.isSome && u.pushHits u.fetchAddress) = true
  · left
    simp only [if_pos h]
    exact dueRequest_eq_none.2 fun _ _ _ hie => by cases hie
  · simp only [if_neg h]
    cases hd : u.dueRequest with
    | none => exact .inl rfl
    | some r => right; simpa [hd] using h

/-- A byte store moves neither the check nor its entry address. -/
theorem memWrite_fetchAddress (s : State) (x : Word) (v : Byte) : (s.memWrite x v).fetchAddress = s.fetchAddress := by
  unfold State.fetchAddress State.serviceInterrupt
  have : (s.memWrite x v).dueRequest = s.dueRequest := rfl
  rw [this]
  cases s.dueRequest <;> rfl

/-- The three bytes of a word stored at the fetch address read back after the check. -/
theorem memRead_storeAtFetch {u : State} (hm : Memory.wf u.mem = true)
    (hs : u.dueRequest = none ∨ u.pushHits u.fetchAddress = false) (w : Nat) :
    let t := (u.storeAtFetch w).serviceInterrupt config
    t.pc = u.fetchAddress ∧ t.memRead u.fetchAddress = byteOfNat w 0 ∧ t.memRead (u.fetchAddress + 1) = byteOfNat w 1
      ∧ t.memRead (u.fetchAddress + 2) = byteOfNat w 2 := by
  intro t
  have hf : (u.storeAtFetch w).fetchAddress = u.fetchAddress := by
    simp only [State.storeAtFetch, memWrite_fetchAddress]
  have hd : (u.storeAtFetch w).dueRequest = u.dueRequest := rfl
  have hm1 := memWrite_wf hm u.fetchAddress (byteOfNat w 0)
  have hm2 := memWrite_wf hm1 (u.fetchAddress + 1) (byteOfNat w 1)
  have hm3 := memWrite_wf hm2 (u.fetchAddress + 2) (byteOfNat w 2)
  have e12 : memIndex (u.fetchAddress + 1) ≠ memIndex u.fetchAddress := memIndex_succ_ne _
  have e23 : memIndex (u.fetchAddress + 2) ≠ memIndex (u.fetchAddress + 1) := by
    have := memIndex_succ_ne (u.fetchAddress + 1)
    rwa [show u.fetchAddress + 1 + 1 = u.fetchAddress + 2 by bv_omega] at this
  have e13 : memIndex (u.fetchAddress + 2) ≠ memIndex u.fetchAddress := by
    have := u.fetchAddress.isLt
    have h2 : (2 : Word).toNat = 2 := rfl
    simp only [memIndex, config_memSize, BitVec.toNat_add, h2]
    omega
  have r0 : (u.storeAtFetch w).memRead u.fetchAddress = byteOfNat w 0 := by
    simp only [State.storeAtFetch]
    rw [memRead_memWrite hm2, if_neg e13.symm, memRead_memWrite hm1, if_neg e12.symm, memRead_memWrite hm, if_pos rfl]
  have r1 : (u.storeAtFetch w).memRead (u.fetchAddress + 1) = byteOfNat w 1 := by
    simp only [State.storeAtFetch]
    rw [memRead_memWrite hm2, if_neg e23.symm, memRead_memWrite hm1, if_pos rfl]
  have r2 : (u.storeAtFetch w).memRead (u.fetchAddress + 2) = byteOfNat w 2 := by
    simp only [State.storeAtFetch]
    rw [memRead_memWrite hm2, if_pos rfl]
  cases hr : u.dueRequest with
  | none =>
    have ht : t = u.storeAtFetch w := serviceInterrupt_none _ (hd.trans hr)
    rw [ht]
    refine ⟨?_, r0, r1, r2⟩
    simp only [State.fetchAddress, serviceInterrupt_none _ hr]; rfl
  | some r =>
    have ht : t = (u.storeAtFetch w).enterInterrupt config r.vector := serviceInterrupt_some _ (hd.trans hr)
    have hh : u.pushHits u.fetchAddress = false := by
      rcases hs with h | h
      · rw [hr] at h; cases h
      · exact h
    simp only [State.pushHits, List.any_cons, List.any_nil, Bool.or_false, Bool.or_eq_false_iff,
      decide_eq_false_iff_not] at hh
    obtain ⟨⟨p0, p1, p2⟩, q0, q1, q2⟩ := hh
    have hread : ∀ y, memIndex (u.sp - 2) ≠ memIndex y → memIndex (u.sp - 2 + 1) ≠ memIndex y →
        t.memRead y = (u.storeAtFetch w).memRead y := by
      intro y h1 h2
      rw [ht]
      refine (memRead_push16 (s := { u.storeAtFetch w with queue := u.queue.tail }) hm3 y _).trans ?_
      exact (if_neg (Ne.symm h2)).trans (if_neg (Ne.symm h1))
    refine ⟨?_, (hread _ p0 q0).trans r0, (hread _ p1 q1).trans r1, (hread _ p2 q2).trans r2⟩
    rw [ht]
    simp only [State.fetchAddress, serviceInterrupt_some _ hr]; rfl

/-- The next Step after `withFetchWord` runs the instruction the decoder reads from the word, in the state after the
check and the fetch. -/
theorem step_withFetchWord {s : State} (hm : Memory.wf s.mem = true) (nbits w : Nat) :
    step (s.withFetchWord nbits w)
      = exec (decode (byteOfNat (w % 2 ^ nbits) 0) (byteOfNat (w % 2 ^ nbits) 1) (byteOfNat (w % 2 ^ nbits) 2))
          ((s.withFetchWord nbits w).serviceInterrupt config).afterFetch := by
  have hr : (s.withFetchWord nbits w).runState = .running := prepareFetch_running s
  have hm' : Memory.wf s.prepareFetch.mem = true := by rw [prepareFetch_mem]; exact hm
  obtain ⟨h0, h1, h2, h3⟩ := memRead_storeAtFetch hm' (prepareFetch_safe s) (w % 2 ^ nbits)
  have e : s.withFetchWord nbits w = s.prepareFetch.storeAtFetch (w % 2 ^ nbits) := rfl
  rw [step_running hr, State.instrAt, e, h0, h1, h2, h3]

end Sys2Proof.Machine
end

