-- ==== Sys2Proof/Laws/HostEvents.lean ====
section
/-! SUPPORT. No event takes the counter of undefined bits back, so no undefined bit is drawn twice in an execution
(spec/00_scope.md R8; log entry 4). -/

namespace Sys2Proof.Machine

/-- An instruction draws no undefined bit or one. -/
theorem exec_draws {i : Instr} {s t : State} (h : exec i s = .next t) : t.draws = s.draws ∨ t.draws = s.draws + 1 := by
  cases i
  case inPort p => simp only [exec, execIn] at h; split at h <;> cases h <;> exact .inl rfl
  case outPort p =>
    simp only [exec, execOut] at h
    split at h
    · next u hu =>
      cases h
      rcases portWrite_cases hu with ⟨rfl, rfl⟩ | ⟨rfl, rfl⟩ | ⟨rfl, rfl⟩ | ⟨rfl, rfl⟩ | ⟨rfl, rfl⟩ | ⟨rfl, rfl⟩
        | ⟨rfl, rfl⟩ <;> exact .inl rfl
    · cases h; exact .inl rfl
  case jcond => cases h; split <;> exact .inl rfl
  case ccond => cases h; split <;> exact .inl rfl
  case rcond => cases h; split <;> exact .inl rfl
  all_goals cases h
  all_goals first
    | exact .inl rfl
    | exact .inr rfl
    | (left; simp)

/-- The interrupt check draws none. -/
@[simp] theorem serviceInterrupt_draws (s : State) (cfg : Config) : (s.serviceInterrupt cfg).draws = s.draws := by
  unfold State.serviceInterrupt; split <;> rfl

/-- A Step never takes the counter back. -/
theorem step_draws_le {s t : State} (h : step s = .next t) : s.draws ≤ t.draws := by
  by_cases hr : s.runState = .running
  · rw [step_running hr] at h
    have := exec_draws h
    simp only [afterFetch_draws, serviceInterrupt_draws] at this
    omega
  · rw [step_stopped hr] at h
    cases h
    exact Nat.le_refl _

/-- No event takes the counter back, Reset included. -/
theorem event_draws_le {s t : State} {e : Event} (h : s.event e = some t) : s.draws ≤ t.draws := by
  cases e with
  | step =>
    simp only [State.event] at h
    split at h <;> cases h
    exact step_draws_le ‹_›
  | loadROM data =>
    simp only [State.event, State.loadROM] at h
    split at h
    · split at h <;> cases h <;> exact Nat.le_refl _
    · cases h
  | queueInterrupt v d =>
    simp only [State.event, State.hostQueueInterrupt] at h
    split at h <;> cases h
    simp
  | setInput k v =>
    simp only [State.event, State.setInput] at h
    split at h <;> cases h <;> exact Nat.le_refl _
  | getOutput k =>
    simp only [State.event, Option.map_eq_some_iff] at h
    obtain ⟨_, _, rfl⟩ := h
    exact Nat.le_refl _
  | _ => cases h; simp [State.hostReset, State.frameTick, State.frameTickMid, State.frameTickEnd]

/-- Along an execution the counter never goes back. -/
theorem run_draws_le (s : State) (events : List Event) : s.draws ≤ (s.run events).draws := by
  induction events generalizing s with
  | nil => exact Nat.le_refl _
  | cons e rest ih =>
    simp only [State.run]
    cases h : s.event e with
    | none => exact ih s
    | some t => exact Nat.le_trans (event_draws_le h) (ih t)

end Sys2Proof.Machine
end

