-- ==== Sys2Proof/Laws/PerInstr.lean ====
section
/-! SUPPORT. A law stated for each instruction: its encoding has the length its opcode byte says (spec/30_encoding.md
R80, R87). -/

namespace Sys2Proof.Laws.EncodedLength

/-- The encoding of an instruction is as long as the lists of R87 say of its first byte. -/
def Statement (i : Instr) : Prop := i.wellFormed = true → (encode i).length = opcodeLength i.opcode

theorem movRR (dst src : Reg) : Statement (.movRR dst src) := by intro _; cases dst <;> cases src <;> rfl
theorem movRM (dst : Reg) : Statement (.movRM dst) := by intro _; cases dst <;> rfl
theorem movMR (src : Reg) : Statement (.movMR src) := by intro _; cases src <;> rfl
theorem mviR (dst : Reg) (d8 : Byte) : Statement (.mviR dst d8) := by intro _; cases dst <;> rfl
theorem mviM (d8 : Byte) : Statement (.mviM d8) := fun _ => rfl
theorem lxi (rp : RegPair) (d16 : Word) : Statement (.lxi rp d16) := by intro _; cases rp <;> rfl
theorem lda (a16 : Word) : Statement (.lda a16) := fun _ => rfl
theorem sta (a16 : Word) : Statement (.sta a16) := fun _ => rfl
theorem lhld (a16 : Word) : Statement (.lhld a16) := fun _ => rfl
theorem shld (a16 : Word) : Statement (.shld a16) := fun _ => rfl
theorem ldax (rp : RegPair) : Statement (.ldax rp) := by unfold Statement; cases rp <;> decide
theorem stax (rp : RegPair) : Statement (.stax rp) := by unfold Statement; cases rp <;> decide
theorem xchg : Statement .xchg := fun _ => rfl
theorem addR (src : Reg) : Statement (.addR src) := by intro _; cases src <;> rfl
theorem addM : Statement .addM := fun _ => rfl
theorem adi (d8 : Byte) : Statement (.adi d8) := fun _ => rfl
theorem adcR (src : Reg) : Statement (.adcR src) := by intro _; cases src <;> rfl
theorem adcM : Statement .adcM := fun _ => rfl
theorem aci (d8 : Byte) : Statement (.aci d8) := fun _ => rfl
theorem subR (src : Reg) : Statement (.subR src) := by intro _; cases src <;> rfl
theorem subM : Statement .subM := fun _ => rfl
theorem sui (d8 : Byte) : Statement (.sui d8) := fun _ => rfl
theorem sbbR (src : Reg) : Statement (.sbbR src) := by intro _; cases src <;> rfl
theorem sbbM : Statement .sbbM := fun _ => rfl
theorem sbi (d8 : Byte) : Statement (.sbi d8) := fun _ => rfl
theorem inrR (dst : Reg) : Statement (.inrR dst) := by intro _; cases dst <;> rfl
theorem inrM : Statement .inrM := fun _ => rfl
theorem dcrR (dst : Reg) : Statement (.dcrR dst) := by intro _; cases dst <;> rfl
theorem dcrM : Statement .dcrM := fun _ => rfl
theorem inx (rp : RegPair) : Statement (.inx rp) := by intro _; cases rp <;> rfl
theorem dcx (rp : RegPair) : Statement (.dcx rp) := by intro _; cases rp <;> rfl
theorem dad (rp : RegPair) : Statement (.dad rp) := by intro _; cases rp <;> rfl
theorem daa : Statement .daa := fun _ => rfl
theorem anaR (src : Reg) : Statement (.anaR src) := by intro _; cases src <;> rfl
theorem anaM : Statement .anaM := fun _ => rfl
theorem ani (d8 : Byte) : Statement (.ani d8) := fun _ => rfl
theorem xraR (src : Reg) : Statement (.xraR src) := by intro _; cases src <;> rfl
theorem xraM : Statement .xraM := fun _ => rfl
theorem xri (d8 : Byte) : Statement (.xri d8) := fun _ => rfl
theorem oraR (src : Reg) : Statement (.oraR src) := by intro _; cases src <;> rfl
theorem oraM : Statement .oraM := fun _ => rfl
theorem ori (d8 : Byte) : Statement (.ori d8) := fun _ => rfl
theorem cmpR (src : Reg) : Statement (.cmpR src) := by intro _; cases src <;> rfl
theorem cmpM : Statement .cmpM := fun _ => rfl
theorem cpi (d8 : Byte) : Statement (.cpi d8) := fun _ => rfl
theorem rlc : Statement .rlc := fun _ => rfl
theorem rrc : Statement .rrc := fun _ => rfl
theorem ral : Statement .ral := fun _ => rfl
theorem rar : Statement .rar := fun _ => rfl
theorem cma : Statement .cma := fun _ => rfl
theorem cmc : Statement .cmc := fun _ => rfl
theorem stc : Statement .stc := fun _ => rfl
theorem jmp (a16 : Word) : Statement (.jmp a16) := fun _ => rfl
theorem jcond (ccc : Cond) (a16 : Word) : Statement (.jcond ccc a16) := by intro _; cases ccc <;> rfl
theorem call (a16 : Word) : Statement (.call a16) := fun _ => rfl
theorem ccond (ccc : Cond) (a16 : Word) : Statement (.ccond ccc a16) := by intro _; cases ccc <;> rfl
theorem ret : Statement .ret := fun _ => rfl
theorem rcond (ccc : Cond) : Statement (.rcond ccc) := by intro _; cases ccc <;> rfl
theorem rst (n : BitVec 3) : Statement (.rst n) := by intro _; revert n; decide
theorem pchl : Statement .pchl := fun _ => rfl
theorem pushRp (rp : RegPair) : Statement (.pushRp rp) := by unfold Statement; cases rp <;> decide
theorem pushPsw : Statement .pushPsw := fun _ => rfl
theorem popRp (rp : RegPair) : Statement (.popRp rp) := by unfold Statement; cases rp <;> decide
theorem popPsw : Statement .popPsw := fun _ => rfl
theorem xthl : Statement .xthl := fun _ => rfl
theorem sphl : Statement .sphl := fun _ => rfl
theorem ei : Statement .ei := fun _ => rfl
theorem di : Statement .di := fun _ => rfl
theorem hlt : Statement .hlt := fun _ => rfl
theorem nop : Statement .nop := fun _ => rfl
theorem inPort (port : Byte) : Statement (.inPort port) := fun _ => rfl
theorem outPort (port : Byte) : Statement (.outPort port) := fun _ => rfl
theorem unimpl08 : Statement .unimpl08 := fun _ => rfl
theorem unimpl10 : Statement .unimpl10 := fun _ => rfl
theorem unimpl18 : Statement .unimpl18 := fun _ => rfl
theorem unimpl20 : Statement .unimpl20 := fun _ => rfl
theorem unimpl28 : Statement .unimpl28 := fun _ => rfl
theorem unimpl30 : Statement .unimpl30 := fun _ => rfl
theorem unimpl38 : Statement .unimpl38 := fun _ => rfl
theorem unimplCB : Statement .unimplCB := fun _ => rfl
theorem unimplD9 : Statement .unimplD9 := fun _ => rfl
theorem unimplDD : Statement .unimplDD := fun _ => rfl
theorem unimplED : Statement .unimplED := fun _ => rfl
theorem unimplFD : Statement .unimplFD := fun _ => rfl

end Sys2Proof.Laws.EncodedLength
end

