-- ==== Sys2Proof/Machine/Assembly.lean ====
section
/-! DEFINITION. The assembly text of an instruction (spec/30_encoding.md R94, R95; decision D34). Nothing of the machine
reads it: it names an instruction for a reader. -/

namespace Sys2Proof

/-- A hexadecimal digit. -/
def hexDigit (n : Nat) : String :=
  match n with
  | 0 => "0" | 1 => "1" | 2 => "2" | 3 => "3" | 4 => "4" | 5 => "5" | 6 => "6" | 7 => "7"
  | 8 => "8" | 9 => "9" | 10 => "A" | 11 => "B" | 12 => "C" | 13 => "D" | 14 => "E" | _ => "F"

/-- A leading 0 where the first digit is a letter, so that the number begins with a digit (R94). -/
def hexLead (n : Nat) : String := if n < 10 then "" else "0"

/-- A byte in the Intel form, as `0FFH` (R94). -/
def byteText (v : Byte) : String :=
  hexLead (v.toNat / 16) ++ hexDigit (v.toNat / 16) ++ hexDigit (v.toNat % 16) ++ "H"

/-- A word in the Intel form, as `1234H` (R94). -/
def wordText (v : Word) : String :=
  hexLead (v.toNat / 4096) ++ hexDigit (v.toNat / 4096) ++ hexDigit (v.toNat / 256 % 16)
    ++ hexDigit (v.toNat / 16 % 16) ++ hexDigit (v.toNat % 16) ++ "H"

/-- The letter of a register (R94). -/
def Reg.text : Reg → String
  | .b => "B" | .c => "C" | .d => "D" | .e => "E" | .h => "H" | .l => "L" | .a => "A"

/-- A pair is named by its first register (R94). -/
def RegPair.text : RegPair → String
  | .bc => "B" | .de => "D" | .hl => "H" | .sp => "SP"

/-- A condition, as it ends a mnemonic (R84, R94). -/
def Cond.text : Cond → String
  | .nz => "NZ" | .z => "Z" | .nc => "NC" | .c => "C" | .po => "PO" | .pe => "PE" | .p => "P" | .m => "M"

/-- The text of an instruction, destination first; an unimplemented byte is a data byte (R94, R95). -/
def Instr.text : Instr → String
  | .movRR dst src => "MOV " ++ dst.text ++ "," ++ src.text
  | .movRM r => "MOV " ++ r.text ++ ",M"
  | .movMR r => "MOV M," ++ r.text
  | .mviR r d8 => "MVI " ++ r.text ++ "," ++ byteText d8
  | .mviM d8 => "MVI M," ++ byteText d8
  | .lxi rp d16 => "LXI " ++ rp.text ++ "," ++ wordText d16
  | .lda a16 => "LDA " ++ wordText a16
  | .sta a16 => "STA " ++ wordText a16
  | .lhld a16 => "LHLD " ++ wordText a16
  | .shld a16 => "SHLD " ++ wordText a16
  | .ldax rp => "LDAX " ++ rp.text
  | .stax rp => "STAX " ++ rp.text
  | .xchg => "XCHG"
  | .addR r => "ADD " ++ r.text
  | .addM => "ADD M"
  | .adi d8 => "ADI " ++ byteText d8
  | .adcR r => "ADC " ++ r.text
  | .adcM => "ADC M"
  | .aci d8 => "ACI " ++ byteText d8
  | .subR r => "SUB " ++ r.text
  | .subM => "SUB M"
  | .sui d8 => "SUI " ++ byteText d8
  | .sbbR r => "SBB " ++ r.text
  | .sbbM => "SBB M"
  | .sbi d8 => "SBI " ++ byteText d8
  | .inrR r => "INR " ++ r.text
  | .inrM => "INR M"
  | .dcrR r => "DCR " ++ r.text
  | .dcrM => "DCR M"
  | .inx rp => "INX " ++ rp.text
  | .dcx rp => "DCX " ++ rp.text
  | .dad rp => "DAD " ++ rp.text
  | .daa => "DAA"
  | .anaR r => "ANA " ++ r.text
  | .anaM => "ANA M"
  | .ani d8 => "ANI " ++ byteText d8
  | .xraR r => "XRA " ++ r.text
  | .xraM => "XRA M"
  | .xri d8 => "XRI " ++ byteText d8
  | .oraR r => "ORA " ++ r.text
  | .oraM => "ORA M"
  | .ori d8 => "ORI " ++ byteText d8
  | .cmpR r => "CMP " ++ r.text
  | .cmpM => "CMP M"
  | .cpi d8 => "CPI " ++ byteText d8
  | .rlc => "RLC"
  | .rrc => "RRC"
  | .ral => "RAL"
  | .rar => "RAR"
  | .cma => "CMA"
  | .cmc => "CMC"
  | .stc => "STC"
  | .jmp a16 => "JMP " ++ wordText a16
  | .jcond ccc a16 => "J" ++ ccc.text ++ " " ++ wordText a16
  | .call a16 => "CALL " ++ wordText a16
  | .ccond ccc a16 => "C" ++ ccc.text ++ " " ++ wordText a16
  | .ret => "RET"
  | .rcond ccc => "R" ++ ccc.text
  | .rst n => "RST " ++ hexDigit n.toNat
  | .pchl => "PCHL"
  | .pushRp rp => "PUSH " ++ rp.text
  | .pushPsw => "PUSH PSW"
  | .popRp rp => "POP " ++ rp.text
  | .popPsw => "POP PSW"
  | .xthl => "XTHL"
  | .sphl => "SPHL"
  | .ei => "EI"
  | .di => "DI"
  | .hlt => "HLT"
  | .nop => "NOP"
  | .inPort port => "IN " ++ byteText port
  | .outPort port => "OUT " ++ byteText port
  | .unimpl08 => "DB " ++ byteText 0x08
  | .unimpl10 => "DB " ++ byteText 0x10
  | .unimpl18 => "DB " ++ byteText 0x18
  | .unimpl20 => "DB " ++ byteText 0x20
  | .unimpl28 => "DB " ++ byteText 0x28
  | .unimpl30 => "DB " ++ byteText 0x30
  | .unimpl38 => "DB " ++ byteText 0x38
  | .unimplCB => "DB " ++ byteText 0xCB
  | .unimplD9 => "DB " ++ byteText 0xD9
  | .unimplDD => "DB " ++ byteText 0xDD
  | .unimplED => "DB " ++ byteText 0xED
  | .unimplFD => "DB " ++ byteText 0xFD

end Sys2Proof
end

