-- ==== Sys2Proof/Tests/Slice0.lean ====
section
/-! SUPPORT. Tests of the model, and a witness for the hypotheses of every statement that has some. A step test's
expected values are those of the vector of spec/95_test_vectors.md its comment names. -/

namespace Sys2Proof.Tests

open Sys2Proof.Machine

/-- Reset with PC at `pc`, `bytes` there and the listed cells set. -/
def start (pc : Word) (bytes : List Byte) (cells : List (Word × Byte)) : State :=
  cells.foldl (fun s c => s.memWrite c.1 c.2)
    { State.reset with pc := pc, mem := memSetAll [] (memIndex pc) bytes }

/-- The state one Step leaves. -/
def after (s : State) : Option State := s.event .step

/-! ### Well-formedness -/

theorem test_wf_refuses_ldax_hl : (Instr.ldax .hl).wellFormed = false := by decide
theorem test_wf_refuses_ldax_sp : (Instr.ldax .sp).wellFormed = false := by decide
theorem test_wf_refuses_stax_hl : (Instr.stax .hl).wellFormed = false := by decide
theorem test_wf_refuses_stax_sp : (Instr.stax .sp).wellFormed = false := by decide
theorem test_wf_refuses_push_sp : (Instr.pushRp .sp).wellFormed = false := by decide
theorem test_wf_refuses_pop_sp : (Instr.popRp .sp).wellFormed = false := by decide
theorem test_wf_accepts_the_rest :
    (Instr.ldax .de).wellFormed = true ∧ (Instr.stax .bc).wellFormed = true ∧ (Instr.pushRp .hl).wellFormed = true
      ∧ (Instr.popRp .hl).wellFormed = true ∧ (Instr.lxi .sp 0).wellFormed = true := by decide

/-- The condition 00_scope.md R5 sets on MEM_SIZE, and that the video window ends the array. -/
theorem test_parameters :
    1 ≤ config.memSize ∧ config.memSize ≤ 0x10000
      ∧ config.vramBase.toNat + config.vramLen = config.memSize := by decide

/-! ### Decoding: words written out from the formats of 30_encoding.md R81 and the map of R90 -/

theorem test_decode_register_codes :
    decode 0b01111000 0 0 = .movRR .a .b ∧ decode 0b01111001 0 0 = .movRR .a .c ∧ decode 0b01111010 0 0 = .movRR .a .d
      ∧ decode 0b01111011 0 0 = .movRR .a .e ∧ decode 0b01111100 0 0 = .movRR .a .h
      ∧ decode 0b01111101 0 0 = .movRR .a .l ∧ decode 0b01000111 0 0 = .movRR .b .a := by decide

theorem test_decode_condition_codes :
    decode 0b11000010 0 0 = .jcond .nz 0 ∧ decode 0b11001010 0 0 = .jcond .z 0 ∧ decode 0b11010010 0 0 = .jcond .nc 0
      ∧ decode 0b11011010 0 0 = .jcond .c 0 ∧ decode 0b11100010 0 0 = .jcond .po 0
      ∧ decode 0b11101010 0 0 = .jcond .pe 0 ∧ decode 0b11110010 0 0 = .jcond .p 0
      ∧ decode 0b11111010 0 0 = .jcond .m 0 := by decide

theorem test_decode_transfer :
    decode 0b01001010 0 0 = .movRR .c .d ∧ decode 0b01101110 0 0 = .movRM .l ∧ decode 0b01110100 0 0 = .movMR .h
      ∧ decode 0b00011110 0x9C 0 = .mviR .e 0x9C ∧ decode 0b00110110 0xFF 0 = .mviM 0xFF
      ∧ decode 0b00100001 0x34 0x12 = .lxi .hl 0x1234 ∧ decode 0b00110001 0x00 0x24 = .lxi .sp 0x2400
      ∧ decode 0x3A 0x01 0x20 = .lda 0x2001 ∧ decode 0x32 0x02 0x20 = .sta 0x2002
      ∧ decode 0x2A 0x03 0x20 = .lhld 0x2003 ∧ decode 0x22 0x04 0x20 = .shld 0x2004 ∧ decode 0b00001010 0 0 = .ldax .bc
      ∧ decode 0b00011010 0 0 = .ldax .de ∧ decode 0b00000010 0 0 = .stax .bc ∧ decode 0b00010010 0 0 = .stax .de
      ∧ decode 0xEB 0 0 = .xchg := by decide

theorem test_decode_arithmetic :
    decode 0b10000001 0 0 = .addR .c ∧ decode 0b10000110 0 0 = .addM ∧ decode 0xC6 0x42 0 = .adi 0x42
      ∧ decode 0b10001010 0 0 = .adcR .d ∧ decode 0b10001110 0 0 = .adcM ∧ decode 0xCE 0xBE 0 = .aci 0xBE
      ∧ decode 0b10010011 0 0 = .subR .e ∧ decode 0b10010110 0 0 = .subM ∧ decode 0xD6 0x01 0 = .sui 0x01
      ∧ decode 0b10011100 0 0 = .sbbR .h ∧ decode 0b10011110 0 0 = .sbbM ∧ decode 0xDE 0x02 0 = .sbi 0x02
      ∧ decode 0b00101100 0 0 = .inrR .l ∧ decode 0x34 0 0 = .inrM ∧ decode 0b00111101 0 0 = .dcrR .a
      ∧ decode 0x35 0 0 = .dcrM ∧ decode 0b00110011 0 0 = .inx .sp ∧ decode 0b00011011 0 0 = .dcx .de
      ∧ decode 0b00111001 0 0 = .dad .sp ∧ decode 0x27 0 0 = .daa := by decide

theorem test_decode_logical :
    decode 0b10100000 0 0 = .anaR .b ∧ decode 0b10100110 0 0 = .anaM ∧ decode 0xE6 0x0F 0 = .ani 0x0F
      ∧ decode 0b10101111 0 0 = .xraR .a ∧ decode 0b10101110 0 0 = .xraM ∧ decode 0xEE 0x81 0 = .xri 0x81
      ∧ decode 0b10110001 0 0 = .oraR .c ∧ decode 0b10110110 0 0 = .oraM ∧ decode 0xF6 0x0F 0 = .ori 0x0F
      ∧ decode 0b10111011 0 0 = .cmpR .e ∧ decode 0b10111110 0 0 = .cmpM ∧ decode 0xFE 0x40 0 = .cpi 0x40
      ∧ decode 0x07 0 0 = .rlc ∧ decode 0x0F 0 0 = .rrc ∧ decode 0x17 0 0 = .ral ∧ decode 0x1F 0 0 = .rar
      ∧ decode 0x2F 0 0 = .cma ∧ decode 0x3F 0 0 = .cmc ∧ decode 0x37 0 0 = .stc := by decide

theorem test_decode_branch :
    decode 0xC3 0x34 0x12 = .jmp 0x1234 ∧ decode 0b11111010 0x00 0x20 = .jcond .m 0x2000
      ∧ decode 0xCD 0x00 0x02 = .call 0x0200 ∧ decode 0b11101100 0x00 0x03 = .ccond .pe 0x0300
      ∧ decode 0xC9 0 0 = .ret ∧ decode 0b11010000 0 0 = .rcond .nc ∧ decode 0b11110111 0 0 = .rst 6
      ∧ decode 0xE9 0 0 = .pchl := by decide

theorem test_decode_stack_and_control :
    decode 0b11010101 0 0 = .pushRp .de ∧ decode 0xF5 0 0 = .pushPsw ∧ decode 0b11100001 0 0 = .popRp .hl
      ∧ decode 0xF1 0 0 = .popPsw ∧ decode 0xE3 0 0 = .xthl ∧ decode 0xF9 0 0 = .sphl ∧ decode 0xFB 0 0 = .ei
      ∧ decode 0xF3 0 0 = .di ∧ decode 0x76 0 0 = .hlt ∧ decode 0x00 0 0 = .nop := by decide

theorem test_decode_ports : decode 0xDB 0x03 0 = .inPort 3 ∧ decode 0xD3 0x06 0 = .outPort 6 := by decide

theorem test_decode_unimplemented :
    unimplementedBytes.map (fun op => decode op 0 0)
      = [.unimpl08, .unimpl10, .unimpl18, .unimpl20, .unimpl28, .unimpl30, .unimpl38, .unimplCB, .unimplD9, .unimplDD,
          .unimplED, .unimplFD] := by decide

/-- The lengths the source shows (MVI 2, JMP 3) and a byte list that ends too soon. -/
theorem test_decode_bytes :
    decodeBytes [0x3E, 0x05, 0x76] = .ok (.mviR .a 0x05, [0x76])
      ∧ decodeBytes [0xC3, 0x34, 0x12] = .ok (.jmp 0x1234, []) ∧ decodeBytes [0xC3, 0x34] = .error .truncated := by
  decide

theorem test_encode :
    encode (.mviR .a 0x05) = [0x3E, 0x05] ∧ encode (.jmp 0x1234) = [0xC3, 0x34, 0x12] ∧ encode .hlt = [0x76]
      ∧ encode (.lxi .hl 0x1234) = [0x21, 0x34, 0x12] := by decide

theorem test_table_word :
    decodeTableWord 8 0x76 = some .hlt ∧ decodeTableWord 16 0x053E = some (.mviR .a 0x05)
      ∧ decodeTableWord 24 0x1234C3 = some (.jmp 0x1234) ∧ decodeTableWord 8 0xC3 = some (.jmp 0) := by decide

/-! ### Single Steps -/

/-- DT1: MOV B,C. -/
theorem test_mov_r_r_keeps_flags :
    (after { start 0x0100 [0x41] [] with b := 0x11, c := 0x22, flags := ⟨true, false, false, true, false⟩ }).map
        (fun t => (t.b, t.flags, t.pc))
      = some (0x22, ⟨true, false, false, true, false⟩, 0x0101) := by decide

/-- DT3: MOV E,M. -/
theorem test_mov_r_m :
    (after { start 0x0100 [0x5E] [(0x2B3C, 0xA7)] with h := 0x2B, l := 0x3C }).map
        (fun t => (t.e, t.pc))
      = some (0xA7, 0x0101) := by decide

/-- DT5: MOV M,H. -/
theorem test_mov_m_h_stores_the_pointer_half :
    (after { start 0x0100 [0x74] [] with h := 0x61, l := 0x23 }).map
        (fun t => (t.memRead 0x2123, t.pc))
      = some (0x61, 0x0101) := by decide

/-- DT9: MVI H,3CH. -/
theorem test_mvi_r :
    (after { start 0x0100 [0x26, 0x3C] [] with flags := ⟨false, true, false, false, true⟩ }).map
        (fun t => (t.h, t.flags, t.pc))
      = some (0x3C, ⟨false, true, false, false, true⟩, 0x0102) := by decide

/-- DT8: MVI M,0FFH. -/
theorem test_mvi_m_mirrors_the_top_byte :
    (after { start 0x0100 [0x36, 0xFF] [] with h := 0xFF, l := 0xFF }).map
        (fun t => (t.memRead 0x3FFF, t.pc))
      = some (0xFF, 0x0102) := by decide

/-- DT11: LXI H,0A55AH. -/
theorem test_lxi_high_byte_first_named :
    (after (start 0x0100 [0x21, 0x5A, 0xA5] [])).map
        (fun t => (t.h, t.l, t.pc))
      = some (0xA5, 0x5A, 0x0103) := by decide

/-- DT12: LXI SP,2400H. -/
theorem test_lxi_sp :
    (after (start 0x0100 [0x31, 0x00, 0x24] [])).map
        (fun t => (t.sp, t.pc))
      = some (0x2400, 0x0103) := by decide

/-- DT14: LDA 6000H. -/
theorem test_lda_mirrored :
    (after (start 0x0100 [0x3A, 0x00, 0x60] [(0x2000, 0x42)])).map
        (fun t => (t.a, t.pc))
      = some (0x42, 0x0103) := by decide

/-- DT15: STA 3FFFH. -/
theorem test_sta_last_byte :
    (after { start 0x0100 [0x32, 0xFF, 0x3F] [] with a := 0x99 }).map
        (fun t => (t.memRead 0x3FFF, t.pc))
      = some (0x99, 0x0103) := by decide

/-- DT18: LHLD 0FFFFH. -/
theorem test_lhld_wraps :
    (after (start 0x0100 [0x2A, 0xFF, 0xFF] [(0x3FFF, 0xCD), (0x0000, 0xAB)])).map
        (fun t => (t.h, t.l, t.pc))
      = some (0xAB, 0xCD, 0x0103) := by decide

/-- DT20: SHLD 3FFFH. -/
theorem test_shld_wraps_index :
    (after { start 0x0100 [0x22, 0xFF, 0x3F] [] with h := 0xAE, l := 0x29 }).map
        (fun t => (t.memRead 0x0000, t.memRead 0x3FFF, t.pc))
      = some (0xAE, 0x29, 0x0103) := by decide

/-- DT22: LDAX D. -/
theorem test_ldax_d_mirrored :
    (after { start 0x0100 [0x1A] [(0x138B, 0x2F)] with d := 0x93, e := 0x8B }).map
        (fun t => (t.a, t.pc))
      = some (0x2F, 0x0101) := by decide

/-- DT23: STAX B. -/
theorem test_stax_b :
    (after { start 0x0100 [0x02] [] with a := 0xE1, b := 0x3F, c := 0x16 }).map
        (fun t => (t.memRead 0x3F16, t.pc))
      = some (0xE1, 0x0101) := by decide

/-- DT25: XCHG. -/
theorem test_xchg :
    (after { start 0x0100 [0xEB] [] with
        h := 0x00, l := 0xFF, d := 0x33, e := 0x55, flags := ⟨false, false, false, true, false⟩ }).map
        (fun t => (t.d, t.e, t.h, t.l, t.flags, t.pc))
      = some (0x00, 0xFF, 0x33, 0x55, ⟨false, false, false, true, false⟩, 0x0101) := by decide

/-- AR1: ADD B. -/
theorem test_add_r_sum :
    (after { start 0x0100 [0x80] [] with a := 0x6C, b := 0x2E }).map
        (fun t => (t.a, t.flags, t.pc))
      = some (0x9A, ⟨false, true, true, false, true⟩, 0x0101) := by decide

/-- AR3: ADD C. -/
theorem test_add_r_carry_without_nibble_carry :
    (after { start 0x0100 [0x81] [] with a := 0x80, c := 0x80 }).map
        (fun t => (t.a, t.flags, t.pc))
      = some (0x00, ⟨true, false, true, true, false⟩, 0x0101) := by decide

/-- AR5: ADD M. -/
theorem test_add_m :
    (after { start 0x0100 [0x86] [(0x2000, 0x7F)] with a := 0x01, h := 0x20, l := 0x00 }).map
        (fun t => (t.a, t.flags, t.pc))
      = some (0x80, ⟨false, true, false, false, true⟩, 0x0101) := by decide

/-- AR7: ADI 42H. -/
theorem test_adi :
    (after { start 0x0100 [0xC6, 0x42] [] with a := 0x14 }).map
        (fun t => (t.a, t.flags, t.pc))
      = some (0x56, ⟨false, false, true, false, false⟩, 0x0102) := by decide

/-- AR8: ADC C. -/
theorem test_adc_r_carry_in :
    (after { start 0x0100 [0x89] [] with a := 0x3D, c := 0x42, flags := ⟨false, false, false, true, false⟩ }).map
        (fun t => (t.a, t.flags, t.pc))
      = some (0x80, ⟨false, true, false, false, true⟩, 0x0101) := by decide

/-- AR10: ADC B. -/
theorem test_adc_r_carry_in_reaches_nibble :
    (after { start 0x0100 [0x88] [] with a := 0x0F, b := 0x00, flags := ⟨false, false, false, true, false⟩ }).map
        (fun t => (t.a, t.flags, t.pc))
      = some (0x10, ⟨false, false, false, false, true⟩, 0x0101) := by decide

/-- AR12: ADC M. -/
theorem test_adc_m :
    (after { start 0x0100 [0x8E] [(0x2000, 0x00)] with
        a := 0x7F, h := 0x20, l := 0x00, flags := ⟨false, false, false, true, false⟩ }).map
        (fun t => (t.a, t.flags, t.pc))
      = some (0x80, ⟨false, true, false, false, true⟩, 0x0101) := by decide

/-- AR13: ACI 0BEH. -/
theorem test_aci :
    (after { start 0x0100 [0xCE, 0xBE] [] with a := 0x56, flags := ⟨false, false, false, false, false⟩ }).map
        (fun t => (t.a, t.flags, t.pc))
      = some (0x14, ⟨false, false, true, true, true⟩, 0x0102) := by decide

/-- AR16: SUB B. -/
theorem test_sub_r_borrow :
    (after { start 0x0100 [0x90] [] with a := 0x00, b := 0x01 }).map
        (fun t => (t.a, t.flags, t.pc))
      = some (0xFF, ⟨false, true, true, true, true⟩, 0x0101) := by decide

/-- AR17: SUB B. -/
theorem test_sub_r_nibble_borrow_only :
    (after { start 0x0100 [0x90] [] with a := 0x10, b := 0x01 }).map
        (fun t => (t.a, t.flags, t.pc))
      = some (0x0F, ⟨false, false, true, false, true⟩, 0x0101) := by decide

/-- AR19: SUB M. -/
theorem test_sub_m :
    (after { start 0x0100 [0x96] [(0x2000, 0x01)] with a := 0x80, h := 0x20, l := 0x00 }).map
        (fun t => (t.a, t.flags, t.pc))
      = some (0x7F, ⟨false, false, false, false, true⟩, 0x0101) := by decide

/-- AR20: SUI 01H. -/
theorem test_sui :
    (after { start 0x0100 [0xD6, 0x01] [] with a := 0x00 }).map
        (fun t => (t.a, t.flags, t.pc))
      = some (0xFF, ⟨false, true, true, true, true⟩, 0x0102) := by decide

/-- AR21: SBB L. -/
theorem test_sbb_r_borrow_in :
    (after { start 0x0100 [0x9D] [] with a := 0x04, l := 0x02, flags := ⟨false, false, false, true, false⟩ }).map
        (fun t => (t.a, t.flags, t.pc))
      = some (0x01, ⟨false, false, false, false, false⟩, 0x0101) := by decide

/-- AR24: SBB B. -/
theorem test_sbb_r_wraps_to_zero :
    (after { start 0x0100 [0x98] [] with a := 0x00, b := 0xFF, flags := ⟨false, false, false, true, false⟩ }).map
        (fun t => (t.flags, t.pc))
      = some (⟨true, false, true, true, true⟩, 0x0101) := by decide

/-- AR25: SBB M. -/
theorem test_sbb_m :
    (after { start 0x0100 [0x9E] [(0x2000, 0x50)] with
        a := 0x50, h := 0x20, l := 0x00, flags := ⟨false, false, false, false, false⟩ }).map
        (fun t => (t.a, t.flags, t.pc))
      = some (0x00, ⟨true, false, true, false, false⟩, 0x0101) := by decide

/-- AR26: SBI 01H. -/
theorem test_sbi :
    (after { start 0x0100 [0xDE, 0x01] [] with a := 0x00, flags := ⟨false, false, false, true, false⟩ }).map
        (fun t => (t.a, t.flags, t.pc))
      = some (0xFE, ⟨false, true, false, true, true⟩, 0x0102) := by decide

/-- AR28: INR A. -/
theorem test_inr_r_keeps_carry :
    (after { start 0x0100 [0x3C] [] with a := 0xFF, flags := ⟨false, false, false, true, false⟩ }).map
        (fun t => (t.a, t.flags, t.pc))
      = some (0x00, ⟨true, false, true, true, true⟩, 0x0101) := by decide

/-- AR30: INR M. -/
theorem test_inr_m :
    (after { start 0x0100 [0x34] [(0x2000, 0x0F)] with h := 0x20, l := 0x00 }).map
        (fun t => (t.flags, t.memRead 0x2000, t.pc))
      = some (⟨false, false, false, false, true⟩, 0x10, 0x0101) := by decide

/-- AR31: DCR B. -/
theorem test_dcr_r_keeps_no_carry :
    (after { start 0x0100 [0x05] [] with b := 0x00, flags := ⟨false, false, false, false, false⟩ }).map
        (fun t => (t.b, t.flags, t.pc))
      = some (0xFF, ⟨false, true, true, false, true⟩, 0x0101) := by decide

/-- AR34: DCR M. -/
theorem test_dcr_m :
    (after { start 0x0100 [0x35] [(0x3A7C, 0x40)] with h := 0x3A, l := 0x7C }).map
        (fun t => (t.flags, t.memRead 0x3A7C, t.pc))
      = some (⟨false, false, true, false, true⟩, 0x3F, 0x0101) := by decide

/-- AR36: INX D. -/
theorem test_inx_carries_into_high :
    (after { start 0x0100 [0x13] [] with d := 0x38, e := 0xFF }).map
        (fun t => (t.d, t.e, t.flags, t.pc))
      = some (0x39, 0x00, ⟨false, false, false, false, false⟩, 0x0101) := by decide

/-- AR37: INX SP. -/
theorem test_inx_sp_wraps :
    (after { start 0x0100 [0x33] [] with sp := 0xFFFF }).map
        (fun t => (t.sp, t.flags, t.pc))
      = some (0x0000, ⟨false, false, false, false, false⟩, 0x0101) := by decide

/-- AR39: DCX H. -/
theorem test_dcx_borrows_from_high :
    (after { start 0x0100 [0x2B] [] with h := 0x98, l := 0x00 }).map
        (fun t => (t.h, t.l, t.flags, t.pc))
      = some (0x97, 0xFF, ⟨false, false, false, false, false⟩, 0x0101) := by decide

/-- AR40: DCX SP. -/
theorem test_dcx_sp_wraps :
    (after { start 0x0100 [0x3B] [] with sp := 0x0000 }).map
        (fun t => (t.sp, t.flags, t.pc))
      = some (0xFFFF, ⟨false, false, false, false, false⟩, 0x0101) := by decide

/-- AR41: DAD B. -/
theorem test_dad_sum :
    (after { start 0x0100 [0x09] [] with b := 0x33, c := 0x9F, h := 0xA1, l := 0x7B }).map
        (fun t => (t.h, t.l, t.flags, t.pc))
      = some (0xD5, 0x1A, ⟨false, false, false, false, false⟩, 0x0101) := by decide

/-- AR43: DAD D. -/
theorem test_dad_carry_keeps_others :
    (after { start 0x0100 [0x19] [] with
        d := 0x00, e := 0x01, h := 0xFF, l := 0xFF, flags := ⟨false, true, false, false, false⟩ }).map
        (fun t => (t.h, t.l, t.flags, t.pc))
      = some (0x00, 0x00, ⟨false, true, false, true, false⟩, 0x0101) := by decide

/-- AR45: DAA. -/
theorem test_daa_both_digits :
    (after { start 0x0100 [0x27] [] with a := 0x9B }).map
        (fun t => (t.a, t.flags, t.pc))
      = some (0x01, ⟨false, false, false, true, true⟩, 0x0101) := by decide

/-- AR49: DAA. -/
theorem test_daa_leaves_99 :
    (after { start 0x0100 [0x27] [] with a := 0x99 }).map
        (fun t => (t.flags, t.pc))
      = some (⟨false, true, true, false, false⟩, 0x0101) := by decide

/-- LG1: ANA C. -/
theorem test_ana_r :
    (after { start 0x0100 [0xA1] [] with a := 0xFC, c := 0x0F, flags := ⟨false, false, false, true, false⟩ }).map
        (fun t => (t.a, t.flags.z, t.flags.s, t.flags.p, t.flags.cy, t.pc))
      = some (0x0C, false, false, true, false, 0x0101) := by decide

/-- LG3: ANA M. -/
theorem test_ana_m :
    (after { start 0x0100 [0xA6] [(0x2000, 0x80)] with a := 0xFF, h := 0x20, l := 0x00 }).map
        (fun t => (t.a, t.flags.z, t.flags.s, t.flags.p, t.flags.cy, t.pc))
      = some (0x80, false, true, false, false, 0x0101) := by decide

/-- LG4: ANI 0FH. -/
theorem test_ani :
    (after { start 0x0100 [0xE6, 0x0F] [] with a := 0x3A, flags := ⟨false, false, false, true, false⟩ }).map
        (fun t => (t.a, t.flags.z, t.flags.s, t.flags.p, t.flags.cy, t.pc))
      = some (0x0A, false, false, true, false, 0x0102) := by decide

/-- LG5: XRA A. -/
theorem test_xra_r_clears :
    (after { start 0x0100 [0xAF] [] with a := 0x5C, flags := ⟨false, false, false, true, true⟩ }).map
        (fun t => (t.a, t.flags, t.pc))
      = some (0x00, ⟨true, false, true, false, false⟩, 0x0101) := by decide

/-- LG7: XRA M. -/
theorem test_xra_m :
    (after { start 0x0100 [0xAE] [(0x2000, 0xAA)] with
        a := 0x55, h := 0x20, l := 0x00, flags := ⟨false, false, false, true, false⟩ }).map
        (fun t => (t.a, t.flags, t.pc))
      = some (0xFF, ⟨false, true, true, false, false⟩, 0x0101) := by decide

/-- LG8: XRI 81H. -/
theorem test_xri :
    (after { start 0x0100 [0xEE, 0x81] [] with a := 0x3B, flags := ⟨false, false, false, true, false⟩ }).map
        (fun t => (t.a, t.flags, t.pc))
      = some (0xBA, ⟨false, true, false, false, false⟩, 0x0102) := by decide

/-- LG9: ORA C. -/
theorem test_ora_r :
    (after { start 0x0100 [0xB1] [] with a := 0x33, c := 0x0F, flags := ⟨false, false, false, true, false⟩ }).map
        (fun t => (t.a, t.flags.z, t.flags.s, t.flags.p, t.flags.cy, t.pc))
      = some (0x3F, false, false, true, false, 0x0101) := by decide

/-- LG11: ORA M. -/
theorem test_ora_m :
    (after { start 0x0100 [0xB6] [(0x2000, 0x80)] with a := 0x01, h := 0x20, l := 0x00 }).map
        (fun t => (t.a, t.flags.z, t.flags.s, t.flags.p, t.flags.cy, t.pc))
      = some (0x81, false, true, true, false, 0x0101) := by decide

/-- LG12: ORI 0FH. -/
theorem test_ori :
    (after { start 0x0100 [0xF6, 0x0F] [] with a := 0xB5 }).map
        (fun t => (t.a, t.flags.z, t.flags.s, t.flags.p, t.flags.cy, t.pc))
      = some (0xBF, false, true, false, false, 0x0102) := by decide

/-- LG13: CMP E. -/
theorem test_cmp_r_above :
    (after { start 0x0100 [0xBB] [] with a := 0x0A, e := 0x05 }).map
        (fun t => (t.flags, t.pc))
      = some (⟨false, false, true, false, false⟩, 0x0101) := by decide

/-- LG14: CMP E. -/
theorem test_cmp_r_below :
    (after { start 0x0100 [0xBB] [] with a := 0x02, e := 0x05 }).map
        (fun t => (t.flags, t.pc))
      = some (⟨false, true, false, true, true⟩, 0x0101) := by decide

/-- LG17: CMP M. -/
theorem test_cmp_m :
    (after { start 0x0100 [0xBE] [(0x2000, 0xFF)] with a := 0x00, h := 0x20, l := 0x00 }).map
        (fun t => (t.flags, t.pc))
      = some (⟨false, false, false, true, true⟩, 0x0101) := by decide

/-- LG19: CPI 0FFH. -/
theorem test_cpi :
    (after { start 0x0100 [0xFE, 0xFF] [] with a := 0x7F }).map
        (fun t => (t.flags, t.pc))
      = some (⟨false, true, false, true, false⟩, 0x0102) := by decide

/-- LG20: RLC. -/
theorem test_rlc :
    (after { start 0x0100 [0x07] [] with a := 0xF2, flags := ⟨true, false, false, false, true⟩ }).map
        (fun t => (t.a, t.flags, t.pc))
      = some (0xE5, ⟨true, false, false, true, true⟩, 0x0101) := by decide

/-- LG22: RRC. -/
theorem test_rrc :
    (after { start 0x0100 [0x0F] [] with a := 0xF2, flags := ⟨false, false, false, true, false⟩ }).map
        (fun t => (t.a, t.flags, t.pc))
      = some (0x79, ⟨false, false, false, false, false⟩, 0x0101) := by decide

/-- LG24: RAL. -/
theorem test_ral :
    (after { start 0x0100 [0x17] [] with a := 0xB5, flags := ⟨false, false, false, false, false⟩ }).map
        (fun t => (t.a, t.flags, t.pc))
      = some (0x6A, ⟨false, false, false, true, false⟩, 0x0101) := by decide

/-- LG26: RAR. -/
theorem test_rar :
    (after { start 0x0100 [0x1F] [] with a := 0x6A, flags := ⟨false, false, false, true, false⟩ }).map
        (fun t => (t.a, t.flags, t.pc))
      = some (0xB5, ⟨false, false, false, false, false⟩, 0x0101) := by decide

/-- LG28: CMA. -/
theorem test_cma :
    (after { start 0x0100 [0x2F] [] with a := 0x51, flags := ⟨true, false, false, true, false⟩ }).map
        (fun t => (t.a, t.flags, t.pc))
      = some (0xAE, ⟨true, false, false, true, false⟩, 0x0101) := by decide

/-- LG30: CMC. -/
theorem test_cmc :
    (after { start 0x0100 [0x3F] [] with flags := ⟨true, false, false, true, false⟩ }).map
        (fun t => (t.flags, t.pc))
      = some (⟨true, false, false, false, false⟩, 0x0101) := by decide

/-- LG31: STC. -/
theorem test_stc :
    (after { start 0x0100 [0x37] [] with flags := ⟨false, false, false, false, false⟩ }).map
        (fun t => (t.flags, t.pc))
      = some (⟨false, false, false, true, false⟩, 0x0101) := by decide

/-- BR1: JMP 1234H. -/
theorem test_jmp :
    (after (start 0x0000 [0xC3, 0x34, 0x12] [])).map
        (fun t => t.pc)
      = some 0x1234 := by decide

/-- BR6: JZ 2000H. -/
theorem test_jz_taken :
    (after { start 0x0100 [0xCA, 0x00, 0x20] [] with flags := ⟨true, false, false, false, false⟩ }).map
        (fun t => (t.flags, t.pc))
      = some (⟨true, false, false, false, false⟩, 0x2000) := by decide

/-- BR9: JNC 2000H. -/
theorem test_jnc_not_taken :
    (after { start 0x0100 [0xD2, 0x00, 0x20] [] with flags := ⟨false, false, false, true, false⟩ }).map
        (fun t => (t.flags, t.pc))
      = some (⟨false, false, false, true, false⟩, 0x0103) := by decide

/-- BR21: CALL 0200H. -/
theorem test_call_wraps_stack :
    (after { start 0x01FD [0xCD, 0x00, 0x02] [] with sp := 0x0001 }).map
        (fun t => (t.sp, t.memRead 0x0000, t.pc))
      = some (0xFFFF, 0x02, 0x0200) := by decide

/-- BR22: CALL 0102H. -/
theorem test_call_over_its_own_bytes :
    (after { start 0x0100 [0xCD, 0x02, 0x01] [] with sp := 0x0103 }).map
        (fun t => (t.sp, t.memRead 0x0101, t.pc))
      = some (0x0101, 0x03, 0x0102) := by decide

/-- BR27: CPE 0300H. -/
theorem test_cpe_taken :
    (after { start 0x0100 [0xEC, 0x00, 0x03] [] with sp := 0x2400, flags := ⟨false, false, true, false, false⟩ }).map
        (fun t => (t.sp, t.flags, t.memRead 0x23FE, t.memRead 0x23FF, t.pc))
      = some (0x23FE, ⟨false, false, true, false, false⟩, 0x03, 0x01, 0x0300) := by decide

/-- BR26: CM 0300H. -/
theorem test_cm_not_taken :
    (after { start 0x0100 [0xFC, 0x00, 0x03] [] with sp := 0x2400, flags := ⟨false, false, false, false, false⟩ }).map
        (fun t => (t.flags, t.pc))
      = some (⟨false, false, false, false, false⟩, 0x0103) := by decide

/-- BR29: RET. -/
theorem test_ret_wraps :
    (after { start 0x0200 [0xC9] [(0x3FFF, 0x78), (0x0000, 0x56)] with sp := 0xFFFF }).map
        (fun t => (t.sp, t.pc))
      = some (0x0001, 0x5678) := by decide

/-- BR34: RM. -/
theorem test_rm_taken :
    (after { start 0x0205 [0xF8] [(0x23FE, 0x03), (0x23FF, 0x01)] with
        sp := 0x23FE, flags := ⟨false, true, false, false, false⟩ }).map
        (fun t => (t.sp, t.flags, t.pc))
      = some (0x2400, ⟨false, true, false, false, false⟩, 0x0103) := by decide

/-- BR31: RZ. -/
theorem test_rz_not_taken :
    (after { start 0x0205 [0xC8] [(0x23FE, 0x03), (0x23FF, 0x01)] with
        sp := 0x23FE, flags := ⟨false, false, false, false, false⟩ }).map
        (fun t => (t.flags, t.pc))
      = some (⟨false, false, false, false, false⟩, 0x0206) := by decide

/-- BR35: PCHL. -/
theorem test_pchl :
    (after { start 0x0100 [0xE9] [] with h := 0x1A, l := 0x32 }).map
        (fun t => t.pc)
      = some 0x1A32 := by decide

/-- BR36: RST 2. -/
theorem test_rst_queues :
    (after { start 0x0150 [0xD7] [] with ie := true, icount := 41, sp := 0x2400 }).map
        (fun t => (t.sp, t.queue, t.pc))
      = some (0x2400, [⟨2, 42⟩], 0x0151) := by decide

/-- BR37: RST 2. -/
theorem test_rst_is_lost_when_masked :
    (after { start 0x0150 [0xD7] [] with ie := false, icount := 41, sp := 0x2400 }).map
        (fun t => (t.sp, t.queue, t.pc))
      = some (0x2400, [], 0x0151) := by decide

/-- ST2: PUSH D. -/
theorem test_push_d :
    (after { start 0x0100 [0xD5] [] with d := 0x8F, e := 0x9D, sp := 0x3A2C }).map
        (fun t => (t.sp, t.memRead 0x3A2A, t.memRead 0x3A2B, t.pc))
      = some (0x3A2A, 0x9D, 0x8F, 0x0101) := by decide

/-- ST4: PUSH H. -/
theorem test_push_h_straddles :
    (after { start 0x0100 [0xE5] [] with h := 0xBE, l := 0xEF, sp := 0x0001 }).map
        (fun t => (t.sp, t.memRead 0x0000, t.memRead 0x3FFF, t.pc))
      = some (0xFFFF, 0xBE, 0xEF, 0x0101) := by decide

/-- ST5: PUSH PSW. -/
theorem test_push_psw_some :
    (after { start 0x0100 [0xF5] [] with a := 0x1F, sp := 0x2400, flags := ⟨true, false, true, true, false⟩ }).map
        (fun t => (t.sp, t.flags, t.memRead 0x23FE, t.memRead 0x23FF, t.pc))
      = some (0x23FE, ⟨true, false, true, true, false⟩, 0x47, 0x1F, 0x0101) := by decide

/-- ST7: PUSH PSW. -/
theorem test_push_psw_all :
    (after { start 0x0100 [0xF5] [] with a := 0xAA, sp := 0x2400, flags := ⟨true, true, true, true, true⟩ }).map
        (fun t => (t.sp, t.flags, t.memRead 0x23FE, t.memRead 0x23FF, t.pc))
      = some (0x23FE, ⟨true, true, true, true, true⟩, 0xD7, 0xAA, 0x0101) := by decide

/-- ST9: POP B. -/
theorem test_pop_b_wraps :
    (after { start 0x0100 [0xC1] [(0x3FFF, 0x11), (0x0000, 0x22)] with sp := 0xFFFF }).map
        (fun t => (t.b, t.c, t.sp, t.pc))
      = some (0x22, 0x11, 0x0001, 0x0101) := by decide

/-- ST10: POP PSW. -/
theorem test_pop_psw :
    (after { start 0x0100 [0xF1] [(0x2C00, 0xC3), (0x2C01, 0xFF)] with sp := 0x2C00 }).map
        (fun t => (t.a, t.sp, t.flags, t.pc))
      = some (0xFF, 0x2C02, ⟨true, true, false, true, false⟩, 0x0101) := by decide

/-- ST12: POP PSW. -/
theorem test_pop_psw_ignores_fixed_bits :
    (after { start 0x0100 [0xF1] [(0x2C00, 0x2A), (0x2C01, 0x00)] with
        sp := 0x2C00, flags := ⟨true, true, true, true, true⟩ }).map
        (fun t => (t.sp, t.flags, t.pc))
      = some (0x2C02, ⟨false, false, false, false, false⟩, 0x0101) := by decide

/-- ST13: XTHL. -/
theorem test_xthl :
    (after { start 0x0100 [0xE3] [(0x10AD, 0xF0), (0x10AE, 0x0D)] with sp := 0x10AD, h := 0x0B, l := 0x3C }).map
        (fun t => (t.h, t.l, t.memRead 0x10AD, t.memRead 0x10AE, t.pc))
      = some (0x0D, 0xF0, 0x3C, 0x0B, 0x0101) := by decide

/-- ST14: SPHL. -/
theorem test_sphl :
    (after { start 0x0100 [0xF9] [] with h := 0x50, l := 0x6C }).map
        (fun t => (t.sp, t.pc))
      = some (0x506C, 0x0101) := by decide

/-- ST15: EI. -/
theorem test_ei :
    (after { start 0x0100 [0xFB] [] with ie := false }).map
        (fun t => (t.ie, t.pc))
      = some (true, 0x0101) := by decide

/-- ST17: DI. -/
theorem test_di_keeps_queue :
    (after { start 0x0100 [0xF3] [] with queue := [{ vector := 2, target := 25000 }], ie := true }).map
        (fun t => (t.ie, t.queue, t.pc))
      = some (false, [⟨2, 25000⟩], 0x0101) := by decide

/-- ST18: HLT. -/
theorem test_hlt :
    (after (start 0x0100 [0x76] [])).map
        (fun t => (t.runState, t.pc))
      = some (.halted, 0x0101) := by decide

/-- ST19: NOP. -/
theorem test_nop :
    (after (start 0x0100 [0x00] [])).map
        (fun t => t.pc)
      = some 0x0101 := by decide

/-- IO4: IN 3. -/
theorem test_in_shift_window :
    (after { start 0x0100 [0xDB, 0x03] [] with
        shift := 0xABCD, inp := { State.reset.inp with in3 := 0x77 }, out := { State.reset.out with out2 := 0x03 } }).map
        (fun t => (t.a, t.pc))
      = some (0x5E, 0x0102) := by decide

/-- IO7: IN 4. -/
theorem test_in_port_4_is_fatal :
    (after { start 0x0100 [0xDB, 0x04] [] with a := 0x55 }).map
        (fun t => (t.runState, t.fault, t.pc))
      = some (.fatal, some ⟨.portRange, 0x0100, 0x04⟩, 0x0101) := by decide

/-- IO9: OUT 4. -/
theorem test_out_shift_data :
    (after { start 0x0100 [0xD3, 0x04] [] with a := 0x34, shift := 0x1200 }).map
        (fun t => (t.shift, t.pc))
      = some (0x3412, 0x0102) := by decide

/-- IO15: OUT 7. -/
theorem test_out_port_7_is_fatal :
    (after { start 0x0100 [0xD3, 0x07] [] with a := 0x99 }).map
        (fun t => (t.runState, t.fault, t.pc))
      = some (.fatal, some ⟨.portRange, 0x0100, 0x07⟩, 0x0101) := by decide

/-- FT1 to FT12: the twelve bytes. -/
theorem test_unimplemented_bytes_are_fatal :
    ∀ op ∈ unimplementedBytes,
      (after { start 0x0100 [op] [] with a := 0x11, sp := 0x2400 }).map (fun t => (t.runState, t.fault, t.pc))
        = some (.fatal, some ⟨.unrecognizedInstruction, 0x0100, op.toNat⟩, 0x0101) := by decide

/-! ### Interrupts, stops and the host -/

/-- S6, Step 101: the entry at PC 0x0064 with SP 0 and the NOP at 0x0010, in one Step. -/
theorem test_interrupt_entry :
    (after { State.reset with pc := 0x0064, icount := 100, ie := true, queue := [⟨2, 100⟩] }).map
        (fun t => (t.pc, t.sp, t.queue, t.memRead16 0x3FFE)) = some (0x0011, 0xFFFE, [], 0x0064) := by decide

/-- S6, Step 100: no entry before the count reaches the target. -/
theorem test_no_entry_before_target :
    (after { State.reset with pc := 0x0063, icount := 99, ie := true, queue := [⟨2, 100⟩] }).map
        (fun t => (t.pc, t.sp, t.queue)) = some (0x0064, 0x0000, [⟨2, 100⟩]) := by decide

/-- Q1: a due request behind a waiting head is not taken. -/
theorem test_head_of_line_blocking :
    (after { State.reset with ie := true, queue := [⟨2, 25000⟩, ⟨1, 0⟩] }).map (fun t => (t.pc, t.queue))
      = some (0x0001, [⟨2, 25000⟩, ⟨1, 0⟩]) := by decide

/-- Q5: an entry and a fatal opcode in one Step. -/
theorem test_entry_then_fatal :
    (after { start 0x0123 [] [(0x0038, 0x08)] with ie := true, sp := 0x2400, queue := [⟨7, 0⟩] }).map
        (fun t => (t.fault, t.pc, t.memRead 0x23FE, t.queue))
      = some (some ⟨.unrecognizedInstruction, 0x0038, 0x08⟩, 0x0039, 0x23, []) := by decide

/-- Q7: no shadow after EI: the next check enters. -/
theorem test_no_shadow_after_ei :
    ((after { start 0x0101 [0xFB] [] with icount := 1, sp := 0x2400, queue := [⟨2, 0⟩] }).bind after).map
        (fun t => (t.pc, t.sp, t.memRead 0x23FE)) = some (0x0011, 0x23FE, 0x02) := by decide

/-- S7: a Step of a halted core changes nothing. -/
theorem test_halted_stays :
    let s := { State.reset with runState := .halted, ie := true, queue := [⟨2, 0⟩] }
    after s = some s := by decide

/-- Q9: an instruction that straddles the top of the address space. -/
theorem test_fetch_wraps :
    (after (start 0xFFFF [0x3E] [(0x0000, 0x77)])).map (fun t => (t.a, t.pc)) = some (0x77, 0x0001) := by decide

/-- S12, S5: the frame tick, and its loss when masked. -/
theorem test_frame_tick :
    ({ State.reset with ie := true, icount := 5 } : State).frameTick.queue = [⟨2, 5⟩, ⟨2, 25005⟩]
      ∧ State.reset.frameTick = State.reset := by decide

/-- Q12: image sizes. -/
theorem test_load_rom :
    (State.reset.event (.loadROM [])).map (·.fault) = some (some ⟨.malformedROM, 0x0000, 0⟩)
      ∧ (State.reset.event (.loadROM [0x3E, 0x05, 0x76])).map (fun t => (t.memRead 2, t.memRead 3, t.fault))
        = some (0x76, 0x00, none) := by decide

/-- Q13: host port events. -/
theorem test_host_ports :
    (State.reset.event (.setInput 1 0x81)).map (·.inp.in1) = some 0x81 ∧ State.reset.event (.setInput 4 0x01) = none
      ∧ State.reset.getOutput 4 = some 0x00 ∧ State.reset.getOutput 7 = none := by decide

/-- S2, S10: parity and the flag byte. -/
theorem test_parity_and_psw :
    parity 0x03 = true ∧ parity 0x07 = false ∧ parity 0x9A = true ∧ pswPack ⟨true, true, true, true, true⟩ = 0xD7
      ∧ pswPack ⟨true, false, true, true, false⟩ = 0x47 := by decide

/-- `withFetchWord`: the word runs as the first instruction after reset, and over a due entry. -/
theorem test_with_fetch_word :
    (after (State.reset.withFetchWord 16 0x053E)).map (fun t => (t.a, t.pc)) = some (0x05, 0x0002)
      ∧ (after (({ State.reset with ie := true, queue := [⟨3, 0⟩], sp := 0x0019 } : State).withFetchWord
            24 0x1234C3)).map
          (fun t => (t.pc, t.memRead 0x0000)) = some (0x1234, 0xC3) := by decide

/-! ### Witnesses: a state and operands that meet the hypotheses of each statement that has some -/

/-- A Running state with IE = 1 and a due head, and bytes to run. -/
def dueState : State :=
  { start 0x0201 [0x00] [(0x0018, 0x3C)] with sp := 0x2400, ie := true, icount := 8, queue := [⟨3, 8⟩, ⟨2, 9⟩] }

/-- A Running state with IE = 1 and a head one instruction ahead. -/
def waitingState : State :=
  { start 0x0200 [0xC3, 0x34, 0x12] [] with sp := 0x2400, ie := true, icount := 7, queue := [⟨3, 8⟩] }

/-- A Running state with IE = 0 and a request held. -/
def maskedState : State := { start 0x0100 [0xFB] [] with sp := 0x2400, queue := [⟨2, 0⟩] }

theorem test_witness_EncodeThenDecode : (Instr.ldax .de).wellFormed = true ∧ (Instr.jmp 0x1234).wellFormed = true := by
  decide

/-- With a head still to come, with an empty queue, and with a due head masked. -/
theorem test_witness_StepRunsDecodedInstruction :
    (∀ s ∈ [waitingState, start 0x0200 [0xC3, 0x34, 0x12] [],
        { start 0x0200 [0xC3, 0x34, 0x12] [] with queue := [⟨3, 0⟩] }],
      s.runState = .running ∧ s.dueRequest = none
        ∧ decodeBytes [s.memRead s.pc, s.memRead (s.pc + 1), s.memRead (s.pc + 2)] = .ok (.jmp 0x1234, []))
      ∧ (Instr.jmp 0x1234).wellFormed = true := by decide

theorem test_witness_StepEntersDueInterrupt :
    Memory.wf dueState.mem = true ∧ dueState.runState = .running ∧ dueState.ie = true
      ∧ dueState.queue = ⟨3, 8⟩ :: [⟨2, 9⟩] ∧ (8 : Nat) ≤ dueState.icount := by decide

theorem test_witness_StepAnswersAndCountsOne :
    State.reset.runState = .running ∧ ({ State.reset with runState := .halted } : State).runState ≠ .running := by
  decide

/-- The invariant holds in a state with memory, a queue and latches in use. -/
theorem test_witness_Inv : dueState.Inv :=
  ⟨by decide, by decide, (by intro r h; cases h), by decide⟩

theorem test_witness_StepKeepsInvariant : dueState.Inv ∧ ∃ t, step dueState = .next t :=
  ⟨test_witness_Inv, _, rfl⟩

theorem test_witness_EventsKeepInvariant : dueState.Inv ∧ dueState.run [.frameTick, .step, .setInput 1 0x10] ≠ dueState :=
  ⟨test_witness_Inv, by decide⟩

/-- One instruction that goes on and one that raises. -/
theorem test_witness_PcPassesTheInstruction :
    ((Instr.lda 0x2000).wellFormed = true ∧ isTransfer (.lda 0x2000) = false ∧ dueState.runState = .running
        ∧ ∃ t, exec (.lda 0x2000) dueState = .next t ∧ t.runState = .running)
      ∧ isTransfer (.inPort 4) = false ∧ ∃ t, exec (.inPort 4) dueState = .next t ∧ t.runState = .fatal :=
  ⟨⟨by decide, by decide, by decide, _, rfl, by decide⟩, by decide, _, rfl, by decide⟩

/-- A Step that drops the head and a Step that appends. -/
theorem test_witness_QueueIsFifoAcrossSteps :
    (∃ t, step dueState = .next t ∧ t.queue = [⟨2, 9⟩])
      ∧ ∃ t, step { start 0x0150 [0xD7] [] with ie := true, icount := 41 } = .next t ∧ t.queue = [⟨2, 42⟩] :=
  ⟨⟨_, rfl, by decide⟩, _, rfl, by decide⟩

/-- The target exactly as many Steps away as are taken, and a host event between. -/
theorem test_witness_RequestIsNeverEnteredEarly :
    waitingState.queue = ⟨3, 8⟩ :: [] ∧ Event.reset ∉ [Event.step, .frameTick]
      ∧ waitingState.icount + [Event.step, .frameTick].count .step ≤ (8 : Nat) := by decide

theorem test_witness_OnlyEiAndDiChangeIE :
    (∃ t, step maskedState = .next t ∧ t.ie ≠ maskedState.ie)
      ∧ ∃ t, step { start 0x0100 [0xF3] [] with ie := true } = .next t ∧ t.ie ≠ true :=
  ⟨⟨_, rfl, by decide⟩, _, rfl, by decide⟩

/-- Each state of the injection logic, a head one ahead, a masked head due and one still to come. -/
theorem test_witness_InjectionStateMachine :
    dueState.injection = .due ∧ waitingState.injection = .waiting ∧ maskedState.injection = .masked
      ∧ State.reset.injection = .empty ∧ dueState.queue = ⟨3, 8⟩ :: [⟨2, 9⟩]
      ∧ waitingState.ie = true ∧ waitingState.queue = ⟨3, 8⟩ :: [] ∧ (8 : Nat) = waitingState.icount + 1
      ∧ (∃ t, exec .ei maskedState = .next t ∧ t.injection = .due)
      ∧ (∃ t, exec .ei { maskedState with queue := [⟨2, 1⟩] } = .next t ∧ t.injection = .waiting)
      ∧ (∃ t, exec .di waitingState = .next t) ∧ (∃ t, exec .di dueState = .next t)
      ∧ ({ State.reset with ie := true } : State).injection = .empty :=
  ⟨by decide, by decide, by decide, by decide, by decide, by decide, by decide, by decide, ⟨_, rfl, by decide⟩,
    ⟨_, rfl, by decide⟩, ⟨_, rfl⟩, ⟨_, rfl⟩, by decide⟩

theorem test_witness_VectorsEnterAtEightTimesVector :
    dueState.ie = true ∧ (dueState.enterInterrupt config 7).pc = 0x0038 := by decide

theorem test_witness_ReturnUndoesInterruptEntry :
    Memory.wf dueState.mem = true ∧ Memory.wf ({ dueState with sp := 0x0001 } : State).mem = true := by decide

theorem test_witness_RstIsServedAtTheNextStep :
    let s : State := { start 0x0150 [0xFF] [] with ie := true, sp := 0x2400 }
    Memory.wf s.mem = true ∧ s.runState = .running ∧ s.ie = true ∧ s.queue = []
      ∧ s.memRead s.pc = 0b11#2 ++ (7 : BitVec 3) ++ 0b111#3 := by decide

/-- A form that stores, one that does not, and one that raises. -/
theorem test_witness_InstructionsWriteOnlyTheirFootprint :
    Memory.wf dueState.mem = true ∧ (∃ t, exec (.call 0x0200) dueState = .next t)
      ∧ (∃ t, exec (.cmpR .b) dueState = .next t) ∧ ∃ t, exec (.outPort 7) dueState = .next t :=
  ⟨by decide, ⟨_, rfl⟩, ⟨_, rfl⟩, _, rfl⟩

/-- Other port instructions, a host event, and the shift register of the window table. -/
theorem test_witness_ShiftRegisterProperties :
    (Instr.inPort 2) ≠ .inPort 3 ∧ (Instr.inPort 2) ≠ .outPort 4 ∧ (Instr.outPort 2) ≠ .outPort 4
      ∧ Event.setInput 3 0x77 ≠ .reset ∧ Event.setInput 3 0x77 ≠ .step
      ∧ (State.reset.event (.setInput 3 0x77)).isSome = true
      ∧ ({ State.reset with shift := 0xABCD } : State).shift = 0xABCD := by decide

/-- Canonical memories, one of them full at both ends, for every statement that asks for one. -/
theorem test_witness_canonical_memory :
    Memory.wf [] = true ∧ Memory.wf [(0x0000, 0x01), (0x3FFF, 0xFF)] = true
      ∧ Memory.wf dueState.mem = true ∧ dueState.mem ≠ [] := by decide

/-- A canonical memory, the ports 0 and 3, and a shift register whose high byte is not A. -/
theorem test_witness_MemoryHasNoSideEffects :
    Memory.wf dueState.mem = true ∧ (0 : Byte).toNat < 4 ∧ (3 : Byte).toNat < 4
      ∧ (∃ t, exec (.inPort 3) dueState = .next t)
      ∧ (∃ t u, exec (.outPort 4) { dueState with a := 0x34 } = .next t ∧ exec (.outPort 4) t = .next u)
      ∧ hiByte dueState.shift ≠ 0x34 :=
  ⟨by decide, by decide, by decide, ⟨_, rfl⟩, ⟨_, _, rfl, rfl⟩, by decide⟩
theorem test_witness_WordAccessLaws : Memory.wf ({ dueState with sp := 0xFFFF } : State).mem = true := by decide
theorem test_witness_MovAndMviCopyOneByte : Memory.wf dueState.mem = true := by decide
theorem test_witness_StoresWriteAddressedBytes : Memory.wf dueState.mem = true := by decide
theorem test_witness_IncrementAndDecrementByte : Memory.wf dueState.mem = true := by decide
theorem test_witness_XthlExchangesStackTop : Memory.wf dueState.mem = true := by decide

/-- The two ends of the video window. -/
theorem test_witness_HostPortAndMemoryEvents : 0 < 7168 ∧ 7167 < 7168 ∧ 0x2400 + 7167 = 0x3FFF := by decide

theorem test_witness_MemoryFormIsCanonical :
    Memory.wf [(0x3FFF, 0x01)] = true ∧ [(0x3FFF, 0x01)] = (State.reset.memWrite 0xFFFF 0x01).mem := by decide

/-- SP at 0, at the wrap, and in the middle; y outside the two stored bytes. -/
theorem test_witness_PushStoresWordBelowSP :
    ([0x0000, 0x0001, 0x2400] : List Word).all (fun sp => Memory.wf ({ dueState with sp := sp } : State).mem) = true
      ∧ (0x2400 : Word).toNat % 0x4000 ≠ (0x2400 - 2 : Word).toNat % 0x4000
      ∧ (0x2400 : Word).toNat % 0x4000 ≠ (0x2400 - 2 + 1 : Word).toNat % 0x4000 :=
  ⟨by decide, by simp, by simp⟩

theorem test_witness_PushThenPopRoundTrips :
    Memory.wf dueState.mem = true ∧ RegPair.hl ≠ .sp ∧ RegPair.bc ≠ .sp := by decide

/-- The least and the greatest operands. -/
theorem test_witness_DaaCorrectsDecimalSum :
    let s : State := { State.reset with a := 0x99 }
    s.a = BitVec.ofNat 8 (99 / 10 * 16 + 99 % 10) ∧ s.getReg .a = BitVec.ofNat 8 (99 / 10 * 16 + 99 % 10)
      ∧ s.getReg .b = BitVec.ofNat 8 (0 / 10 * 16 + 0 % 10) := by decide

/-- Both outcomes of a conditional call, and each condition met and not met. -/
theorem test_witness_CallsPushTheReturnAddress :
    Memory.wf dueState.mem = true ∧ dueState.flags.cond .nz = true ∧ dueState.flags.cond .z = false
      ∧ (∀ k ∈ [Cond.nz, .nc, .po, .p], (⟨false, false, false, false, false⟩ : Flags).cond k = true
          ∧ (⟨true, true, true, true, true⟩ : Flags).cond k = false)
      ∧ ∀ k ∈ [Cond.z, .c, .pe, .m], (⟨true, true, true, true, true⟩ : Flags).cond k = true
          ∧ (⟨false, false, false, false, false⟩ : Flags).cond k = false := by decide

theorem test_witness_PushForms :
    Memory.wf dueState.mem = true ∧ ∀ rp ∈ [RegPair.bc, .de, .hl], rp ≠ .sp := by decide

/-- Every port of the bank reads, ports 4 and 255 do not; the offsets 0 and 7. -/
theorem test_witness_PortReadSelects :
    (∀ p ∈ ([0, 1, 2, 3] : List Byte), (State.reset.portRead p).isSome = true)
      ∧ (∀ p ∈ ([4, 255] : List Byte), 4 ≤ p.toNat)
      ∧ ({ State.reset with out := { State.reset.out with out2 := 0xF8 } } : State).out.out2.toNat % 8 = 0
      ∧ ({ State.reset with out := { State.reset.out with out2 := 0xFF } } : State).out.out2.toNat % 8 = 7 := by decide

theorem test_witness_PortOutsideTheBankIsFatal :
    4 ≤ (4 : Byte).toNat ∧ 4 ≤ (255 : Byte).toNat ∧ 7 ≤ (7 : Byte).toNat ∧ 7 ≤ (255 : Byte).toNat := by decide

/-- One of the twelve bytes, and a byte that raises the other fatal condition. -/
theorem test_witness_ExactlyTwelveBytesAreUnrecognized :
    (∀ s ∈ [start 0x0100 [0xFD] [], start 0x0100 [0xDB, 0x04] []],
      s.runState = .running ∧ s.fault = none ∧ s.dueRequest = none)
      ∧ ∃ t, step (start 0x0100 [0xFD] []) = .next t ∧ t.runState = .fatal :=
  ⟨by decide, _, rfl, by decide⟩

/-- Refused, malformed at both ends, accepted at both ends. -/
theorem test_witness_LoadRomPlacesTheImage :
    dueState.icount ≠ 0 ∧ Memory.wf State.reset.mem = true ∧ State.reset.icount = 0 ∧ State.reset.runState = .running
      ∧ ([] : List Byte).length = 0 ∧ 0x4000 < (List.replicate 0x4001 (0 : Byte)).length
      ∧ 1 ≤ ([0x76] : List Byte).length ∧ (List.replicate 0x4000 (0 : Byte)).length ≤ 0x4000 :=
  ⟨by decide, by decide, rfl, rfl, rfl, by rw [List.length_replicate]; decide, by decide,
    by rw [List.length_replicate]⟩

/-- 00_scope.md R8: after a Reset the second ANA draws another bit than the first one's. -/
theorem test_reset_draws_go_on :
    let s := (start 0x0000 [0xA0] []).run [.step, .reset]
    s.draws = 1 ∧ s.pc = 0 ∧ s.icount = 0 := by decide

/-! ### The opcode map of spec/30_encoding.md R90, row by row (operand bytes 34H and 12H) -/

/-- The texts of one row of the map. -/
def mapRow (hi : Nat) : List String :=
  (List.range 16).map fun lo => (decode (BitVec.ofNat 8 (16 * hi + lo)) 0x34 0x12).text

theorem test_map_row_0x :
    mapRow 0x0 =
      ["NOP", "LXI B,1234H", "STAX B", "INX B", "INR B", "DCR B", "MVI B,34H", "RLC",
       "DB 08H", "DAD B", "LDAX B", "DCX B", "INR C", "DCR C", "MVI C,34H", "RRC"] := by decide

theorem test_map_row_1x :
    mapRow 0x1 =
      ["DB 10H", "LXI D,1234H", "STAX D", "INX D", "INR D", "DCR D", "MVI D,34H", "RAL",
       "DB 18H", "DAD D", "LDAX D", "DCX D", "INR E", "DCR E", "MVI E,34H", "RAR"] := by decide

theorem test_map_row_2x :
    mapRow 0x2 =
      ["DB 20H", "LXI H,1234H", "SHLD 1234H", "INX H", "INR H", "DCR H", "MVI H,34H", "DAA",
       "DB 28H", "DAD H", "LHLD 1234H", "DCX H", "INR L", "DCR L", "MVI L,34H", "CMA"] := by decide

theorem test_map_row_3x :
    mapRow 0x3 =
      ["DB 30H", "LXI SP,1234H", "STA 1234H", "INX SP", "INR M", "DCR M", "MVI M,34H", "STC",
       "DB 38H", "DAD SP", "LDA 1234H", "DCX SP", "INR A", "DCR A", "MVI A,34H", "CMC"] := by decide

theorem test_map_row_4x :
    mapRow 0x4 =
      ["MOV B,B", "MOV B,C", "MOV B,D", "MOV B,E", "MOV B,H", "MOV B,L", "MOV B,M", "MOV B,A",
       "MOV C,B", "MOV C,C", "MOV C,D", "MOV C,E", "MOV C,H", "MOV C,L", "MOV C,M", "MOV C,A"] := by decide

theorem test_map_row_5x :
    mapRow 0x5 =
      ["MOV D,B", "MOV D,C", "MOV D,D", "MOV D,E", "MOV D,H", "MOV D,L", "MOV D,M", "MOV D,A",
       "MOV E,B", "MOV E,C", "MOV E,D", "MOV E,E", "MOV E,H", "MOV E,L", "MOV E,M", "MOV E,A"] := by decide

theorem test_map_row_6x :
    mapRow 0x6 =
      ["MOV H,B", "MOV H,C", "MOV H,D", "MOV H,E", "MOV H,H", "MOV H,L", "MOV H,M", "MOV H,A",
       "MOV L,B", "MOV L,C", "MOV L,D", "MOV L,E", "MOV L,H", "MOV L,L", "MOV L,M", "MOV L,A"] := by decide

theorem test_map_row_7x :
    mapRow 0x7 =
      ["MOV M,B", "MOV M,C", "MOV M,D", "MOV M,E", "MOV M,H", "MOV M,L", "HLT", "MOV M,A",
       "MOV A,B", "MOV A,C", "MOV A,D", "MOV A,E", "MOV A,H", "MOV A,L", "MOV A,M", "MOV A,A"] := by decide

theorem test_map_row_8x :
    mapRow 0x8 =
      ["ADD B", "ADD C", "ADD D", "ADD E", "ADD H", "ADD L", "ADD M", "ADD A",
       "ADC B", "ADC C", "ADC D", "ADC E", "ADC H", "ADC L", "ADC M", "ADC A"] := by decide

theorem test_map_row_9x :
    mapRow 0x9 =
      ["SUB B", "SUB C", "SUB D", "SUB E", "SUB H", "SUB L", "SUB M", "SUB A",
       "SBB B", "SBB C", "SBB D", "SBB E", "SBB H", "SBB L", "SBB M", "SBB A"] := by decide

theorem test_map_row_Ax :
    mapRow 0xA =
      ["ANA B", "ANA C", "ANA D", "ANA E", "ANA H", "ANA L", "ANA M", "ANA A",
       "XRA B", "XRA C", "XRA D", "XRA E", "XRA H", "XRA L", "XRA M", "XRA A"] := by decide

theorem test_map_row_Bx :
    mapRow 0xB =
      ["ORA B", "ORA C", "ORA D", "ORA E", "ORA H", "ORA L", "ORA M", "ORA A",
       "CMP B", "CMP C", "CMP D", "CMP E", "CMP H", "CMP L", "CMP M", "CMP A"] := by decide

theorem test_map_row_Cx :
    mapRow 0xC =
      ["RNZ", "POP B", "JNZ 1234H", "JMP 1234H", "CNZ 1234H", "PUSH B", "ADI 34H", "RST 0",
       "RZ", "RET", "JZ 1234H", "DB 0CBH", "CZ 1234H", "CALL 1234H", "ACI 34H", "RST 1"] := by decide

theorem test_map_row_Dx :
    mapRow 0xD =
      ["RNC", "POP D", "JNC 1234H", "OUT 34H", "CNC 1234H", "PUSH D", "SUI 34H", "RST 2",
       "RC", "DB 0D9H", "JC 1234H", "IN 34H", "CC 1234H", "DB 0DDH", "SBI 34H", "RST 3"] := by decide

theorem test_map_row_Ex :
    mapRow 0xE =
      ["RPO", "POP H", "JPO 1234H", "XTHL", "CPO 1234H", "PUSH H", "ANI 34H", "RST 4",
       "RPE", "PCHL", "JPE 1234H", "XCHG", "CPE 1234H", "DB 0EDH", "XRI 34H", "RST 5"] := by decide

theorem test_map_row_Fx :
    mapRow 0xF =
      ["RP", "POP PSW", "JP 1234H", "DI", "CP 1234H", "PUSH PSW", "ORI 34H", "RST 6",
       "RM", "SPHL", "JM 1234H", "EI", "CM 1234H", "DB 0FDH", "CPI 34H", "RST 7"] := by decide

end Sys2Proof.Tests
end

section
/-! Parity of a result byte (10_state.md R27): the model counts the 1 bits in a list; the same parity read as evenness of
the number of 1 bits, and as the exclusive or of the bits. -/

namespace Sys2Proof.Machine

/-- The list's count of 1 bits is the size of the set of 1 bits. -/
theorem countOnes_eq_card (r : Byte) :
    countOnes r = ((Finset.range 8).filter fun i => r.getLsbD i = true).card := by
  rw [countOnes, ← List.toFinset_card_of_nodup (List.nodup_range.filter _), List.toFinset_filter, List.toFinset_range]

/-- R27 as the model computes it: the count of 1 bits is even. -/
theorem parity_eq_true_iff (r : Byte) : parity r = true ↔ Even (countOnes r) := by
  rw [Nat.even_iff, parity, decide_eq_true_iff]

/-- Each element at which `f` is true flips an exclusive or along a list, so that it ends where it began exactly when
their number is even. -/
theorem foldl_xor_eq_beq_even (f : Nat → Bool) (l : List Nat) (b : Bool) :
    l.foldl (fun acc i => acc ^^ f i) b = (b == decide (Even (l.filter f).length)) := by
  induction l generalizing b with
  | nil => simp
  | cons i l ih =>
    rw [List.foldl_cons, ih]
    cases hi : f i with
    | false => simp [hi]
    | true => cases b <;> simp [hi, Nat.even_add_one, -Nat.not_even_iff_odd]

/-- The exclusive or that begins at 1 and runs over bits 0 to 7 is the parity (R27). -/
theorem parity_eq_foldl_xor (r : Byte) :
    parity r = (List.range 8).foldl (fun acc i => acc ^^ r.getLsbD i) true := by
  rw [foldl_xor_eq_beq_even, Bool.true_beq, Bool.eq_iff_iff, decide_eq_true_iff]
  exact parity_eq_true_iff r

/-- Settles O26: the count of 1 bits is the size of their set, and each 1 bit flips the exclusive or. -/
theorem parityIsEvenCountOfOnes : Obligations.ParityIsEvenCountOfOnes := by
  refine ⟨fun r => ?evenCount, fun r => ?xorOfBits, ?examples⟩
  case evenCount => rw [← countOnes_eq_card]; exact parity_eq_true_iff r
  case xorOfBits => exact parity_eq_foldl_xor r
  case examples => decide

end Sys2Proof.Machine
end
section
/-! Memory and port side effects (20_memory.md R56): a byte store as a frame, IN as a read of A and PC alone, and OUT 4
as a shift that a second OUT 4 carries on. -/

namespace Sys2Proof.Machine

/-- IN of a port of the bank changes A and PC alone (45_io_ports.md R234). -/
theorem exec_inPort_eq_of_next {s t : State} {p : Byte} (hp : p.toNat < 4) (h : exec (.inPort p) s = .next t) :
    t = { s with a := t.a, pc := t.pc } := by
  simp only [exec, execIn] at h
  split at h
  case h_1 v _ => cases h; rfl
  case h_2 hnone =>
    have hge : 4 ≤ p.toNat := portRead_eq_none.1 hnone
    exact absurd hp (by omega)

/-- OUT 4 loads A into the shift register (45_io_ports.md R233, R235). -/
theorem exec_outPort_four (s : State) : exec (.outPort 4) s = .next ((s.loadShift s.a).advance 1) := rfl

/-- The high byte of the shift register is the byte loaded last. -/
theorem hiByte_loadShift_shift (s : State) (v : Byte) : hiByte (s.loadShift v).shift = v :=
  hiByte_joinBytes v _

/-- The low byte of the shift register is the high byte it had before the load. -/
theorem loByte_loadShift_shift (s : State) (v : Byte) : loByte (s.loadShift v).shift = hiByte s.shift :=
  loByte_joinBytes v _

/-- Loading the same byte again keeps the shift register only where its high byte was that byte before the first load:
the second load brings the byte down to the low half. -/
theorem hiByte_eq_of_loadShift_loadShift_shift {s : State} {v : Byte}
    (h : ((s.loadShift v).loadShift v).shift = (s.loadShift v).shift) : hiByte s.shift = v :=
  calc hiByte s.shift
      _ = loByte (s.loadShift v).shift := (loByte_loadShift_shift s v).symm
      _ = loByte ((s.loadShift v).loadShift v).shift := by rw [h]
      _ = hiByte (s.loadShift v).shift := loByte_loadShift_shift _ v
      _ = v := hiByte_loadShift_shift s v

/-- Settles O21: a byte store is the array's read-after-write law, IN answers before PortRange can be raised, and the
second OUT 4 moves A into the low half of the shift register. -/
theorem memoryHasNoSideEffects : Obligations.MemoryHasNoSideEffects := by
  refine ⟨fun s x v hwf => ?store, fun s t p hp h => ?input, fun s t u ht hu hne hshift => ?output⟩
  case store => exact ⟨rfl, writesByte_memWrite hwf x v, memWrite_wf hwf x v⟩
  case input => exact exec_inPort_eq_of_next hp h
  case output =>
    rw [exec_outPort_four] at ht hu
    cases ht
    cases hu
    exact hne (hiByte_eq_of_loadShift_loadShift_shift hshift)

end Sys2Proof.Machine
end
section
/-! `push16` (44_stack_control.md R210): the word written just below SP, read back byte by byte, with its frame. -/

namespace Sys2Proof.Machine

/-- The lower address of a written word holds its low byte (20_memory.md R52). -/
theorem memRead_of_writesWord_lo {s t : State} {x v : Word} (h : State.WritesWord s t x v) :
    t.memRead x = loByte v := by
  rw [h, if_neg (memIndex_succ_ne x).symm, if_pos rfl]

/-- The next address, modulo 65536, holds its high byte (20_memory.md R52). -/
theorem memRead_of_writesWord_hi {s t : State} {x v : Word} (h : State.WritesWord s t x v) :
    t.memRead (x + 1) = hiByte v := by
  rw [h, if_pos rfl]

/-- An address that reaches neither index of a written word reads as before. -/
theorem memRead_of_writesWord_ne {s t : State} {x y v : Word} (h : State.WritesWord s t x v)
    (hlo : memIndex y ≠ memIndex x) (hhi : memIndex y ≠ memIndex (x + 1)) : t.memRead y = s.memRead y := by
  rw [h, if_neg hhi, if_neg hlo]

/-- A push changes SP and the memory alone. -/
theorem push16_eq (s : State) (v : Word) :
    s.push16 v = { s with sp := s.sp - 2, mem := (s.push16 v).mem } := rfl

/-- SP goes down by 2 modulo 65536. -/
theorem push16_sp_toNat (s : State) (v : Word) : (s.push16 v).sp.toNat = (s.sp.toNat + 65534) % 65536 := by
  rw [push16_sp, BitVec.toNat_sub, Nat.add_comm]
  rfl

/-- Settles O24: a push writes one word at SP - 2, so each byte is read by the law of a written word; SP = 0x0001 puts
that word at 0xFFFF, whose next address is 0x0000. -/
theorem pushStoresWordBelowSP : Obligations.PushStoresWordBelowSP := by
  refine ⟨fun s v hwf => ?everySP, fun s v hwf hsp => ?wraps⟩
  case everySP =>
    have hword := writesWord_push16 hwf v
    exact ⟨push16_eq s v, push16_sp_toNat s v, memRead_of_writesWord_lo hword, memRead_of_writesWord_hi hword,
      fun _ hlo hhi => memRead_of_writesWord_ne hword hlo hhi⟩
  case wraps =>
    have hnew : s.sp - 2 = 0xFFFF := by rw [hsp]; rfl
    have hword : State.WritesWord s (s.push16 v) 0xFFFF v := hnew ▸ writesWord_push16 hwf v
    exact ⟨(push16_sp s v).trans hnew, memRead_of_writesWord_lo hword, memRead_of_writesWord_hi hword⟩

end Sys2Proof.Machine
end
section
/-! The shift register (45_io_ports.md R238). An operation that commutes with putting another word in the shift register
neither observes nor changes it: `shift_eq_of_eq_replaced` gives the second from the first. So the shared operations, the
instructions, the interrupt check and the host events each have one lemma, which says that they commute. The window is
read bit by bit. -/

namespace Sys2Proof.Machine

/-! ### Who changes and observes it -/

/-- A state that stays itself when `w` is put in its shift register already held `w`. -/
theorem shift_eq_of_eq_replaced {t : State} {w : Word} (h : t = { t with shift := w }) : t.shift = w :=
  congrArg State.shift h

theorem queueInterrupt_replaceShift (s : State) (w : Word) (v : BitVec 3) (delay : Nat) :
    { s with shift := w }.queueInterrupt v delay = { s.queueInterrupt v delay with shift := w } := by
  unfold State.queueInterrupt
  split <;> rfl

/-- Every port but 3 reads the same (45_io_ports.md R232). -/
theorem portRead_replaceShift (s : State) (w : Word) {p : Byte} (hp : p ≠ 3) :
    { s with shift := w }.portRead p = s.portRead p := by
  simp only [State.portRead, config_portShiftRead, hp, if_false]

/-- Every port but 4 is written the same (45_io_ports.md R233). -/
theorem portWrite_replaceShift (s : State) (w : Word) {p : Byte} (hp : p ≠ 4) (v : Byte) :
    { s with shift := w }.portWrite p v = (s.portWrite p v).map fun t => { t with shift := w } := by
  simp only [State.portWrite, config_portShiftData, hp, if_false]
  split_ifs <;> rfl

theorem exec_inPort_replaceShift {s t : State} {p : Byte} (hp : p ≠ 3) (h : exec (.inPort p) s = .next t) (w : Word) :
    exec (.inPort p) { s with shift := w } = .next { t with shift := w } := by
  simp only [exec, execIn, portRead_replaceShift s w hp] at h ⊢
  split at h <;> cases h <;> rfl

theorem exec_outPort_replaceShift {s t : State} {p : Byte} (hp : p ≠ 4) (h : exec (.outPort p) s = .next t) (w : Word) :
    exec (.outPort p) { s with shift := w } = .next { t with shift := w } := by
  simp only [exec, execOut, portWrite_replaceShift s w hp] at h ⊢
  split at h <;> next heq => cases h; rw [heq]; rfl

/-- Every instruction but IN 3 and OUT 4 commutes with replacing the shift register: the port instructions by the port
laws, the conditional transfers on each side of the condition, and the writes of a register or pair whichever it is. -/
theorem exec_replaceShift {i : Instr} (h3 : i ≠ .inPort 3) (h4 : i ≠ .outPort 4) {s t : State}
    (h : exec i s = .next t) (w : Word) : exec i { s with shift := w } = .next { t with shift := w } := by
  cases i
  case inPort p => exact exec_inPort_replaceShift (fun hp => h3 (hp ▸ rfl)) h w
  case outPort p => exact exec_outPort_replaceShift (fun hp => h4 (hp ▸ rfl)) h w
  case movRR dst _ | movRM dst | mviR dst _ | inrR dst | dcrR dst => cases h; cases dst <;> rfl
  case lxi rp _ | inx rp | dcx rp | popRp rp => cases h; cases rp <;> rfl
  case jcond | ccond | rcond => cases h; simp only [exec, execJcond, execCcond, execRcond]; split <;> rfl
  case rst n => cases h; exact congrArg _ (queueInterrupt_replaceShift s w n _)
  all_goals cases h; rfl

/-- Such an instruction keeps the shift register: replacing it by itself changes nothing. -/
theorem exec_shift {i : Instr} (h3 : i ≠ .inPort 3) (h4 : i ≠ .outPort 4) {s t : State} (h : exec i s = .next t) :
    t.shift = s.shift :=
  shift_eq_of_eq_replaced (Host.Outcome.next.inj (h.symm.trans (exec_replaceShift h3 h4 h s.shift)))

/-- Whether a request is due does not depend on the shift register (60_exceptions.md R261). -/
theorem serviceInterrupt_replaceShift (s : State) (w : Word) (cfg : Config) :
    { s with shift := w }.serviceInterrupt cfg = { s.serviceInterrupt cfg with shift := w } := by
  cases h : s.dueRequest with
  | none => rw [serviceInterrupt_none cfg h, serviceInterrupt_none (s := { s with shift := w }) cfg h]
  | some r => rw [serviceInterrupt_some cfg h, serviceInterrupt_some (s := { s with shift := w }) cfg h]; rfl

theorem loadROM_replaceShift (s : State) (w : Word) (data : List Byte) :
    { s with shift := w }.loadROM data = (s.loadROM data).map fun t => { t with shift := w } := by
  unfold State.loadROM
  split_ifs <;> rfl

theorem hostQueueInterrupt_replaceShift (s : State) (w : Word) (vector delay : Nat) :
    { s with shift := w }.hostQueueInterrupt vector delay
      = (s.hostQueueInterrupt vector delay).map fun t => { t with shift := w } := by
  unfold State.hostQueueInterrupt
  split
  · exact congrArg some (queueInterrupt_replaceShift ..)
  · rfl

theorem frameTick_replaceShift (s : State) (w : Word) :
    { s with shift := w }.frameTick = { s.frameTick with shift := w } :=
  calc { s with shift := w }.frameTick
      _ = { s.frameTickMid with shift := w }.frameTickEnd := congrArg State.frameTickEnd (queueInterrupt_replaceShift ..)
      _ = { s.frameTick with shift := w } := queueInterrupt_replaceShift ..

theorem setInput_replaceShift (s : State) (w : Word) (index : Nat) (value : Byte) :
    { s with shift := w }.setInput index value = (s.setInput index value).map fun t => { t with shift := w } := by
  unfold State.setInput
  split <;> rfl

/-- Every host event but Reset and Step commutes with replacing the shift register, refusals included. -/
theorem event_replaceShift {e : Event} (hreset : e ≠ .reset) (hstep : e ≠ .step) (s : State) (w : Word) :
    { s with shift := w }.event e = (s.event e).map fun t => { t with shift := w } := by
  cases e with
  | reset => exact absurd rfl hreset
  | step => exact absurd rfl hstep
  | loadROM data => exact loadROM_replaceShift s w data
  | queueInterrupt vector delay => exact hostQueueInterrupt_replaceShift s w vector delay
  | frameTick => exact congrArg some (frameTick_replaceShift s w)
  | frameTickMid | frameTickEnd => exact congrArg some (queueInterrupt_replaceShift ..)
  | setInput index value => exact setInput_replaceShift s w index value
  | getOutput index => simp only [State.event, Option.map_map]; rfl
  | getRAM => rfl

/-- Such an event keeps the shift register. -/
theorem event_shift {e : Event} (hreset : e ≠ .reset) (hstep : e ≠ .step) {s t : State} (h : s.event e = some t) :
    t.shift = s.shift := by
  have hself : some t = (some t).map fun t => { t with shift := s.shift } :=
    h ▸ event_replaceShift hreset hstep s s.shift
  exact shift_eq_of_eq_replaced (Option.some.inj hself)

/-! ### Its window -/

/-- The window is bits 15-n to 8-n (R238 (d)). -/
theorem shiftWindow_eq_extractLsb' (s : State) :
    s.shiftWindow = s.shift.extractLsb' (8 - s.out.out2.toNat % 8) 8 := by
  refine BitVec.eq_of_getLsbD_eq fun i hi => ?_
  rw [getLsbD_shiftWindow s hi, BitVec.getLsbD_extractLsb', decide_eq_true hi, Bool.true_and]

/-- IN 3 reads the window, whatever input latch 3 holds (R232). -/
theorem portRead_three (s : State) : s.portRead 3 = some (s.shift.extractLsb' (8 - s.out.out2.toNat % 8) 8) :=
  congrArg some (shiftWindow_eq_extractLsb' s)

theorem exec_inPort_three (s : State) :
    exec (.inPort 3) s
      = .next ({ s with a := s.shift.extractLsb' (8 - s.out.out2.toNat % 8) 8 }.advance 1) := by
  simp only [exec, execIn, portRead_three]

/-- A window of two joined bytes: the bits below `n` come from the top of the low byte, the others from the high byte. -/
theorem extractLsb'_joinBytes (hi lo : Byte) {n : Nat} (hn : n ≤ 8) :
    (joinBytes hi lo).extractLsb' (8 - n) 8 = (hi <<< n) ||| (lo >>> (8 - n)) := by
  refine BitVec.eq_of_getLsbD_eq fun i hi8 => ?_
  rw [BitVec.getLsbD_extractLsb', getLsbD_joinBytes, BitVec.getLsbD_or, BitVec.getLsbD_shiftLeft,
    BitVec.getLsbD_ushiftRight]
  by_cases hlow : i < n
  · simp [hi8, hlow, show 8 - n + i < 8 by omega]
  · have hbeyond : lo.getLsbD (8 - n + i) = false := BitVec.getLsbD_of_ge _ _ (by omega)
    simp [hi8, hlow, hbeyond, show ¬ 8 - n + i < 8 by omega, show 8 - n + i - 8 = i - n by omega]

/-- Two loads leave nothing of what the shift register held (R238 (c)). -/
theorem loadShift_loadShift_shift (s : State) (v1 v2 : Byte) :
    ((s.loadShift v1).loadShift v2).shift = joinBytes v2 v1 :=
  congrArg (joinBytes v2) (hiByte_loadShift_shift s v1)

/-- A joined word as the rule's number. -/
theorem joinBytes_eq_ofNat (hi lo : Byte) : joinBytes hi lo = BitVec.ofNat 16 (hi.toNat * 256 + lo.toNat) := by
  rw [Nat.mul_comm, ← joinBytes_toNat, BitVec.ofNat_toNat, BitVec.setWidth_eq]

/-- The low three bits of a byte are its offset. -/
theorem toNat_and_seven (k : Byte) : (k &&& 7).toNat = k.toNat % 8 :=
  (BitVec.toNat_and ..).trans (Nat.and_two_pow_sub_one_eq_mod k.toNat 3)

/-- The windows at listed offsets, from the word in the shift register alone. -/
theorem map_portRead_three {s : State} {w : Word} (h : s.shift = w) (offsets : List Byte) :
    offsets.map (fun n => { s with out := { s.out with out2 := n } }.portRead 3)
      = offsets.map fun n => some (w.extractLsb' (8 - n.toNat % 8) 8) := by
  simp only [portRead_three, h]

/-- Settles O55: what commutes with replacing the shift register neither observes nor changes it; the window of two
loads is the window of the joined bytes; the tables of (f) and (g) are the windows of 0xABCD and 0x3412. -/
theorem shiftRegisterProperties : Obligations.ShiftRegisterProperties := by
  refine ⟨fun i s w h3 h4 => ?instructions, fun s => ⟨_, exec_inPort_three s, rfl⟩, fun s w => ?check,
    fun s e hreset hstep => ⟨fun _ => event_shift hreset hstep, event_replaceShift hreset hstep s⟩,
    fun s w index x => ⟨rfl, rfl, rfl, rfl⟩, fun s v1 v2 k => ?twoLoads, portRead_three,
    fun s k => ⟨_, rfl, rfl⟩, fun s k => ?lowBits, fun s h => ?tableF, fun s => ?tableG⟩
  case instructions =>
    obtain ⟨t, ht⟩ := exec_next i s
    exact ⟨t, ht, exec_shift h3 h4 ht, exec_replaceShift h3 h4 ht w⟩
  case check =>
    exact ⟨shift_eq_of_eq_replaced (serviceInterrupt_replaceShift s s.shift config),
      serviceInterrupt_replaceShift s w config⟩
  case twoLoads =>
    have hshift := loadShift_loadShift_shift s v1 v2
    refine ⟨_, _, _, _, exec_outPort_four _, exec_outPort_four _, rfl, exec_inPort_three _,
      hshift.trans (joinBytes_eq_ofNat v2 v1), ?_⟩
    exact (congrArg (BitVec.extractLsb' (8 - k.toNat % 8) 8) hshift).trans
      (extractLsb'_joinBytes v2 v1 (Nat.mod_lt _ (by decide)).le)
  case lowBits => simp only [portRead_three, toNat_and_seven, Nat.mod_mod]
  case tableF => exact (map_portRead_three h _).trans (by decide)
  case tableG => exact (map_portRead_three (loadShift_loadShift_shift s 0x12 0x34) _).trans (by decide)

end Sys2Proof.Machine
end
section
/-! The interrupt injection logic (60_exceptions.md R261): its four states over IE and the queue's head, the check as
the entry that Due performs, and each transition. -/

namespace Sys2Proof.Machine

/-! ### The four states -/

theorem injection_eq_empty_of_queue {s : State} (hq : s.queue = []) : s.injection = .empty := by
  rw [State.injection, hq]

/-- The state over a head: Masked with IE = 0, else as its target is still to come or reached. -/
theorem injection_of_queue_cons {s : State} {r : Request} {q : List Request} (hq : s.queue = r :: q) :
    s.injection = if s.ie = false then .masked else if s.icount < r.target then .waiting else .due := by
  rw [State.injection, hq]
  cases s.ie <;> rfl

theorem injection_eq_empty_iff {s : State} : s.injection = .empty ↔ s.queue = [] := by
  cases hq : s.queue with
  | nil => simp [injection_eq_empty_of_queue hq]
  | cons r q => rw [injection_of_queue_cons hq]; split_ifs <;> simp

theorem injection_eq_masked_iff {s : State} : s.injection = .masked ↔ s.queue ≠ [] ∧ s.ie = false := by
  cases hq : s.queue with
  | nil => simp [injection_eq_empty_of_queue hq]
  | cons r q => rw [injection_of_queue_cons hq]; split_ifs <;> simp [*]

theorem injection_eq_waiting_iff {s : State} :
    s.injection = .waiting ↔ ∃ r q, s.ie = true ∧ s.queue = r :: q ∧ s.icount < r.target := by
  cases hq : s.queue with
  | nil => simp [injection_eq_empty_of_queue hq]
  | cons r q => rw [injection_of_queue_cons hq]; split_ifs <;> simp [*]

theorem injection_eq_due_iff {s : State} :
    s.injection = .due ↔ ∃ r q, s.ie = true ∧ s.queue = r :: q ∧ r.target ≤ s.icount := by
  cases hq : s.queue with
  | nil => simp [injection_eq_empty_of_queue hq]
  | cons r q => rw [injection_of_queue_cons hq]; split_ifs <;> simp_all

/-- The pair (IE, queue) at which the logic is in Waiting or in Due, whatever the head's target. -/
theorem injection_eq_waiting_or_due_iff {s : State} :
    s.injection = .waiting ∨ s.injection = .due ↔ s.ie = true ∧ s.queue ≠ [] := by
  cases hq : s.queue with
  | nil => simp [injection_eq_empty_of_queue hq]
  | cons r q => rw [injection_of_queue_cons hq]; split_ifs <;> simp [*]

theorem injection_ne_masked_of_ie {s : State} (hie : s.ie = true) : s.injection ≠ .masked := by
  intro hmasked
  obtain ⟨_, hie'⟩ := injection_eq_masked_iff.1 hmasked
  exact absurd (hie.symm.trans hie') (by decide)

/-! ### The check -/

/-- Outside Due the check does nothing. -/
theorem serviceInterrupt_of_injection_ne_due {s : State} (cfg : Config) (h : s.injection ≠ .due) :
    s.serviceInterrupt cfg = s := by
  obtain hsame | ⟨r, q, hie, hle, hq, _⟩ := serviceInterrupt_cases s cfg
  · exact hsame
  · exact absurd (injection_eq_due_iff.2 ⟨r, q, hie, hq, hle⟩) h

/-- In Due the check enters the head. -/
theorem serviceInterrupt_of_injection_eq_due {s : State} {r : Request} {q : List Request} (cfg : Config)
    (h : s.injection = .due) (hq : s.queue = r :: q) : s.serviceInterrupt cfg = s.enterInterrupt cfg r.vector := by
  obtain ⟨r', q', hie, hq', hle⟩ := injection_eq_due_iff.1 h
  cases hq.symm.trans hq'
  exact serviceInterrupt_some cfg (dueRequest_eq_some.2 ⟨hie, hle, q, hq⟩)

/-- The entry address of a vector, at the stride's value. -/
theorem vectorAddress_config (v : BitVec 3) : vectorAddress config v = BitVec.ofNat 16 (8 * v.toNat) := rfl

/-! ### The transitions -/

theorem exec_ei (s : State) : exec .ei s = .next { s with ie := true } := rfl

theorem exec_di (s : State) : exec .di s = .next { s with ie := false } := rfl

/-- The fetch counts: a head whose target is the next count is Waiting before it and Due after it. -/
theorem injection_afterFetch_of_target_eq_succ {s : State} {r : Request} {q : List Request} (hie : s.ie = true)
    (hq : s.queue = r :: q) (htarget : r.target = s.icount + 1) :
    s.injection = .waiting ∧ s.afterFetch.injection = .due :=
  ⟨injection_eq_waiting_iff.2 ⟨r, q, hie, hq, by omega⟩, injection_eq_due_iff.2 ⟨r, q, hie, hq, htarget.le⟩⟩

/-- A request to an empty queue becomes its head, due at once only with delay 0. -/
theorem injection_queueInterrupt_of_queue_nil {s : State} (v : BitVec 3) (delay : Nat) (hie : s.ie = true)
    (hq : s.queue = []) : (s.queueInterrupt v delay).injection = if delay = 0 then .due else .waiting := by
  have hcons : (s.queueInterrupt v delay).queue = [{ vector := v, target := s.icount + delay }] := by
    rw [queueInterrupt_queue, if_pos hie, hq, List.nil_append]
  have hie' : (s.queueInterrupt v delay).ie = true := (queueInterrupt_ie s v delay).trans hie
  split_ifs with hdelay
  · exact injection_eq_due_iff.2 ⟨_, _, hie', hcons, by simp [hdelay]⟩
  · exact injection_eq_waiting_iff.2 ⟨_, _, hie', hcons, by simp; omega⟩

/-- Settles O15: the check enters the head in Due alone. The fetch and EI leave IE = 1 over a queue that is not empty,
which is Waiting or Due; DI leaves IE = 0 over it, which is Masked; an entry keeps IE = 1, which is not Masked. -/
theorem injectionStateMachine : Obligations.InjectionStateMachine := by
  refine ⟨fun s => injection_eq_due_iff, fun s => injection_eq_empty_iff, fun s => injection_eq_masked_iff,
    fun s => injection_eq_waiting_iff, fun s => step_running, fun s => serviceInterrupt_of_injection_ne_due config,
    fun s r q hdue hq => ?entry, fun s hwait => ?fetch, fun s r q => injection_afterFetch_of_target_eq_succ,
    fun s t hmasked ht => ?ei, fun s t h ht => ?di,
    fun s v delay hempty hie => injection_queueInterrupt_of_queue_nil v delay hie (injection_eq_empty_iff.1 hempty)⟩
  case entry =>
    obtain ⟨hie, _⟩ := injection_eq_waiting_or_due_iff.1 (.inr hdue)
    have hentered := serviceInterrupt_of_injection_eq_due config hdue hq
    refine ⟨?_, ?_, injection_ne_masked_of_ie ((serviceInterrupt_ie s).trans hie)⟩
    · rw [hentered, enterInterrupt_queue, hq, List.tail_cons]
    · rw [hentered, enterInterrupt_pc, vectorAddress_config]
  case fetch =>
    have hkept : s.ie = true ∧ s.queue ≠ [] := injection_eq_waiting_or_due_iff.1 (.inl hwait)
    exact injection_eq_waiting_or_due_iff.2 hkept
  case ei =>
    obtain ⟨hq, _⟩ := injection_eq_masked_iff.1 hmasked
    cases (exec_ei s).symm.trans ht
    exact injection_eq_waiting_or_due_iff.2 ⟨rfl, hq⟩
  case di =>
    obtain ⟨_, hq⟩ := injection_eq_waiting_or_due_iff.1 h
    cases (exec_di s).symm.trans ht
    exact injection_eq_masked_iff.2 ⟨hq, rfl⟩

end Sys2Proof.Machine
end
section
/-! The vectors' entry addresses (60_exceptions.md R264) and the requests of a frame tick (R259). -/

namespace Sys2Proof.Machine

/-- With IE = 1 a frame tick appends its two requests, both with vector 2. -/
theorem frameTick_queue_of_ie {s : State} (hie : s.ie = true) :
    s.frameTick.queue
      = s.queue ++ [{ vector := 2, target := s.icount }, { vector := 2, target := s.icount + 25000 }] := by
  have hmid : s.frameTickMid.queue = s.queue ++ [{ vector := 2, target := s.icount }] :=
    (queueInterrupt_queue ..).trans (if_pos hie)
  have hend : s.frameTick.queue = s.frameTickMid.queue ++ [{ vector := 2, target := s.frameTickMid.icount + 25000 }] :=
    (queueInterrupt_queue ..).trans (if_pos ((queueInterrupt_ie ..).trans hie))
  have hcount : s.frameTickMid.icount = s.icount := queueInterrupt_icount ..
  rw [hend, hmid, hcount, List.append_assoc]
  rfl

/-- Settles O16: PC after an entry is the vector's address and nothing else, 8 times the vector from any state. -/
theorem vectorsEnterAtEightTimesVector : Obligations.VectorsEnterAtEightTimesVector := by
  refine ⟨fun s v => vectorAddress_config v, ?addresses, fun s => vectorAddress_config 0,
    fun s => frameTick_queue_of_ie, fun s => vectorAddress_config 2⟩
  case addresses => simp only [enterInterrupt_pc, vectorAddress_config]; decide

end Sys2Proof.Machine
end
section
/-! The encoding (30_encoding.md R80 to R93): the encoder's bytes decode back instruction by instruction, and the
decoder's instructions encode back cell by cell of the opcode map (R90). -/

namespace Sys2Proof

open Machine (joinBytes_hiByte_loByte loByte_joinBytes hiByte_joinBytes)

theorem threeBits_cases (y : BitVec 3) : y = 0 ∨ y = 1 ∨ y = 2 ∨ y = 3 ∨ y = 4 ∨ y = 5 ∨ y = 6 ∨ y = 7 := by
  revert y; decide

/-! ### From instructions to bytes and back -/

/-- A three-byte form keeps its 16-bit operand: `mk` is the form its opcode byte begins (R86). -/
theorem decodeBytes_wordForm {op : Byte} {mk : Word → Instr} (w : Word) (rest : List Byte) (hlen : opcodeLength op = 3)
    (hmk : ∀ b2 b3, decode op b2 b3 = mk (joinBytes b3 b2)) :
    decodeBytes (op :: loByte w :: hiByte w :: rest) = .ok (mk w, rest) := by
  rw [decodeBytes_three _ _ rest hlen, hmk, joinBytes_hiByte_loByte]

/-- The bytes of a well-formed instruction decode to it: once its register, pair, condition or vector is known the
decoder computes, but for a 16-bit operand, which is joined from its two bytes. -/
theorem decodeBytes_encode {i : Instr} (hwf : i.wellFormed = true) (rest : List Byte) :
    decodeBytes (encode i ++ rest) = .ok (i, rest) := by
  cases i <;> simp only [encode, Instr.opcode, Instr.operandBytes, List.cons_append, List.nil_append]
  case movRR dst src => cases dst <;> cases src <;> rfl
  case movRM r | movMR r | mviR r _ | inrR r | dcrR r | addR r | adcR r | subR r | sbbR r | anaR r | xraR r | oraR r
      | cmpR r => cases r <;> rfl
  case inx rp | dcx rp | dad rp => cases rp <;> rfl
  case ldax rp | stax rp => cases rp <;> [rfl; rfl; cases hwf; cases hwf]
  case pushRp rp | popRp rp => cases rp <;> [rfl; rfl; rfl; cases hwf]
  case rcond ccc => cases ccc <;> rfl
  case rst n =>
    rcases threeBits_cases n with rfl | rfl | rfl | rfl | rfl | rfl | rfl | rfl <;> rfl
  case lda w | sta w | lhld w | shld w | jmp w | call w => exact decodeBytes_wordForm w rest rfl fun _ _ => rfl
  case lxi rp w => cases rp <;> exact decodeBytes_wordForm w rest rfl fun _ _ => rfl
  case jcond ccc w | ccond ccc w => cases ccc <;> exact decodeBytes_wordForm w rest rfl fun _ _ => rfl
  all_goals rfl

/-- Settles O2. -/
theorem encodeThenDecode : Obligations.EncodeThenDecode := fun _ rest hwf => decodeBytes_encode hwf rest

/-! ### From bytes to instructions and back -/

/-- The fields of an opcode byte: quadrant, `y` and `z` (R90). -/
theorem opcode_eq_fields (op : Byte) : op.extractLsb' 6 2 ++ op.extractLsb' 3 3 ++ op.extractLsb' 0 3 = op := by
  revert op; decide

theorem twoBits_cases (q : BitVec 2) : q = 0 ∨ q = 1 ∨ q = 2 ∨ q = 3 := by revert q; decide

/-- What DecodeThenEncode says of one opcode byte, its two operand bytes given as the word `w`. -/
def DecodesBack (op : Byte) (w : Word) : Prop :=
  (decode op (loByte w) (hiByte w)).wellFormed = true
    ∧ encode (decode op (loByte w) (hiByte w)) = [op, loByte w, hiByte w].take (opcodeLength op)

/-- Each of the 256 cells of the opcode map (R90) computes, whatever the operand bytes are. -/
theorem decodesBack_fields (q : BitVec 2) (y z : BitVec 3) (w : Word) : DecodesBack (q ++ y ++ z) w := by
  simp only [DecodesBack, decode, joinBytes_hiByte_loByte]
  rcases twoBits_cases q with rfl | rfl | rfl | rfl <;>
  rcases threeBits_cases y with rfl | rfl | rfl | rfl | rfl | rfl | rfl | rfl <;>
  rcases threeBits_cases z with rfl | rfl | rfl | rfl | rfl | rfl | rfl | rfl <;>
  exact ⟨rfl, rfl⟩

theorem decodesBack (op : Byte) (w : Word) : DecodesBack op w :=
  opcode_eq_fields op ▸ decodesBack_fields _ _ _ w

/-- Settles O3: any two operand bytes are the bytes of a word, and every cell of the opcode map decodes back. -/
theorem decodeThenEncode : Obligations.DecodeThenEncode := by
  intro op b2 b3
  have hback := decodesBack op (joinBytes b3 b2)
  simpa only [DecodesBack, loByte_joinBytes, hiByte_joinBytes] using hback

/-- Settles O1: the nine words are decoded. -/
theorem writtenWordsDecode : Obligations.WrittenWordsDecode := by
  unfold Obligations.WrittenWordsDecode
  decide

end Sys2Proof
end
section
/-! One Step (30_encoding.md R88): it runs the instruction whose bytes stand at PC, after the entry of a due request
(60_exceptions.md R262), and it counts one instruction. -/

namespace Sys2Proof.Machine

/-! ### The instruction a Step runs -/

/-- A Step's three bytes hold the instruction it decodes, whichever of them that instruction uses (log entry 11). -/
theorem decodeBytes_threeBytes (op b2 b3 : Byte) :
    decodeBytes [op, b2, b3] = .ok (decode op b2 b3, [op, b2, b3].drop (opcodeLength op)) := by
  obtain ⟨hwf, hencode⟩ := decodeThenEncode op b2 b3
  have hback := decodeBytes_encode hwf ([op, b2, b3].drop (opcodeLength op))
  rwa [hencode, List.take_append_drop] at hback

/-- Settles O4: with no due request the check does nothing, and the three bytes at PC hold the one instruction. -/
theorem stepRunsDecodedInstruction : Obligations.StepRunsDecodedInstruction := by
  intro s i rest hrun hnotDue hdecode _
  have hcheck : s.serviceInterrupt config = s := serviceInterrupt_none config (dueRequest_eq_none.2 hnotDue)
  have hinstr : s.instrAt s.pc = i := by
    cases (decodeBytes_threeBytes ..).symm.trans hdecode
    rfl
  rw [step_running hrun, hcheck, hinstr]
  rfl

/-- Settles O6: each instruction answers, and neither it nor the check counts, so the fetch's count is the Step's. -/
theorem stepAnswersAndCountsOne : Obligations.StepAnswersAndCountsOne := by
  intro s
  by_cases hrun : s.runState = .running
  · obtain ⟨t, ht⟩ := exec_next _ (s.serviceInterrupt config).afterFetch
    obtain ⟨_, _, hcount, _, _⟩ := exec_queue ht
    refine ⟨t, (step_running hrun).trans ht, fun _ => ?_, fun hstopped => absurd hrun hstopped⟩
    rw [hcount, afterFetch_icount, serviceInterrupt_icount]
  · exact ⟨s, step_stopped hrun, fun hrun' => absurd hrun' hrun, fun _ => rfl⟩

/-! ### The entry -/

/-- An entry changes SP, PC, the queue and memory; IE stays, at the parameter's value (R262). -/
theorem enterInterrupt_eq (s : State) (v : BitVec 3) :
    s.enterInterrupt config v
      = { s with
          sp := s.sp - 2
          pc := BitVec.ofNat 16 (8 * v.toNat)
          queue := s.queue.tail
          mem := (s.enterInterrupt config v).mem } := by
  rw [← vectorAddress_config, ← enterInterrupt_queue s config v]
  simp only [State.enterInterrupt, config_intEntryClearsIE, Bool.not_false, Bool.and_true]
  rfl

/-- An entry pushes PC. -/
theorem writesWord_enterInterrupt {s : State} (hwf : Memory.wf s.mem = true) (cfg : Config) (v : BitVec 3) :
    State.WritesWord s (s.enterInterrupt cfg v) (s.sp - 2) s.pc :=
  writesWord_push16 (s := { s with queue := s.queue.tail }) hwf s.pc

theorem enterInterrupt_wf {s : State} (hwf : Memory.wf s.mem = true) (cfg : Config) (v : BitVec 3) :
    Memory.wf (s.enterInterrupt cfg v).mem = true :=
  push16_wf (s := { s with queue := s.queue.tail }) hwf s.pc

/-- Settles O5: the entered state is the one the Step fetches in. -/
theorem stepEntersDueInterrupt : Obligations.StepEntersDueInterrupt := by
  intro s r q hwf hrun hie hq htarget
  have hcheck : s.serviceInterrupt config = s.enterInterrupt config r.vector :=
    serviceInterrupt_some config (dueRequest_eq_some.2 ⟨hie, htarget, q, hq⟩)
  refine ⟨s.enterInterrupt config r.vector, ?changes, writesWord_enterInterrupt hwf config r.vector, ?runs⟩
  case changes => simpa only [hq, List.tail_cons] using enterInterrupt_eq s r.vector
  case runs =>
    rw [step_running hrun, hcheck]
    rfl

/-- A written word reads back (20_memory.md R52). -/
theorem memRead16_of_writesWord {s t : State} {x v : Word} (h : State.WritesWord s t x v) : t.memRead16 x = v := by
  rw [State.memRead16, memRead_of_writesWord_lo h, memRead_of_writesWord_hi h, joinBytes_hiByte_loByte]

/-- Settles O17: the return pops the word the entry pushed, and 2 goes from SP and comes back. -/
theorem returnUndoesInterruptEntry : Obligations.ReturnUndoesInterruptEntry := by
  intro s v hwf
  refine ⟨(s.enterInterrupt config v).returnFromStack, rfl, ?pc, ?sp, ?ie⟩
  case pc => exact memRead16_of_writesWord (writesWord_enterInterrupt hwf config v)
  case sp => rw [returnFromStack_sp, enterInterrupt_sp, BitVec.sub_add_cancel]
  case ie => rw [returnFromStack_ie, enterInterrupt_ie, config_intEntryClearsIE, Bool.not_false, Bool.and_true]

end Sys2Proof.Machine
end
section
/-! The invariant of CORE (10_state.md R35, R38; 45_io_ports.md R237; 60_exceptions.md R257): Reset establishes it, and
each phase of a Step and each host event keeps it. The twelve unimplemented bytes (30_encoding.md R91), whose records it
speaks of, are those of the opcode map. -/

namespace Sys2Proof.Machine

/-! ### The twelve bytes -/

/-- An instruction of the twelve stands for its own opcode byte, one of the list. -/
theorem opcode_of_unimplementedByte {i : Instr} {op : Byte} (h : unimplementedByte i = some op) :
    i.opcode = op ∧ op ∈ unimplementedBytes := by
  cases i <;> cases h <;> exact ⟨rfl, by decide⟩

theorem opcode_decode (op b2 b3 : Byte) : (decode op b2 b3).opcode = op := by
  obtain ⟨_, hencode⟩ := decodeThenEncode op b2 b3
  have hhead := congrArg List.head? hencode
  obtain hlen | hlen | hlen := opcodeLength_cases op <;> rw [hlen] at hhead <;> exact Option.some.inj hhead

theorem unimplementedByte_decode_of_mem {op : Byte} (h : op ∈ unimplementedBytes) (b2 b3 : Byte) :
    unimplementedByte (decode op b2 b3) = some op := by
  simp only [unimplementedBytes, List.mem_cons, List.not_mem_nil, or_false] at h
  rcases h with rfl | rfl | rfl | rfl | rfl | rfl | rfl | rfl | rfl | rfl | rfl | rfl <;> rfl

/-- A decoded instruction is one of the twelve exactly when its opcode byte is one of the list. -/
theorem unimplementedByte_decode {op b2 b3 op' : Byte} :
    unimplementedByte (decode op b2 b3) = some op' ↔ op' = op ∧ op ∈ unimplementedBytes := by
  constructor
  · intro h
    obtain ⟨hop, hmem⟩ := opcode_of_unimplementedByte h
    cases hop.symm.trans (opcode_decode op b2 b3)
    exact ⟨rfl, hmem⟩
  · rintro ⟨rfl, hmem⟩
    exact unimplementedByte_decode_of_mem hmem b2 b3

/-! ### The phases of a Step -/

/-- A Running state that meets the invariant holds no record. -/
theorem State.Inv.fault_eq_none {s : State} (h : s.Inv) (hrun : s.runState = .running) : s.fault = none := by
  rw [← Option.not_isSome_iff_eq_none, h.recordIffFatal, hrun]
  decide

/-- A state that is not Fatal and holds no record meets the invariant's clauses on the record. -/
theorem State.Inv.of_unfaulted {s : State} (hs : s.Unfaulted) (hwf : Memory.wf s.mem = true) (hout : s.out.out4 = 0) :
    s.Inv := by
  obtain ⟨hfault, hrun⟩ := hs
  exact ⟨hwf, by simp [hfault, hrun], by simp [hfault], hout⟩

theorem State.Inv.serviceInterrupt {s : State} (h : s.Inv) : (s.serviceInterrupt config).Inv := by
  obtain hsame | ⟨r, _, _, _, _, hentered⟩ := serviceInterrupt_cases s config
  · rwa [hsame]
  · rw [hentered]
    exact h.of_parts (enterInterrupt_wf h.memCanonical config r.vector) rfl rfl rfl

theorem State.Inv.afterFetch {s : State} (h : s.Inv) : s.afterFetch.Inv := h.of_parts h.memCanonical rfl rfl rfl

/-- An instruction leaves no record, or one of the two a Step can take, whose info fits. -/
theorem State.Inv.exec {s t : State} {i : Instr} (h : s.Inv) (hrun : s.runState = .running) (ht : exec i s = .next t) :
    t.Inv := by
  obtain ⟨hsame, hstate, _⟩ | ⟨op, hop, rfl⟩ | ⟨p, hp, rfl, _⟩ := exec_fault ht
  · obtain ⟨_, _, _, hout, hwf⟩ := exec_queue ht
    have hnotFatal : t.runState ≠ .fatal := by
      obtain hkept | ⟨_, hhalted⟩ := hstate
      · simp [hkept, hrun]
      · simp [hhalted]
    exact .of_unfaulted ⟨hsame.trans (h.fault_eq_none hrun), hnotFatal⟩ (hwf h.memCanonical)
      (hout.trans h.out4Untouched)
  · obtain ⟨_, hmem⟩ := opcode_of_unimplementedByte hop
    exact h.raise ⟨op, hmem, rfl⟩
  · exact h.raise ⟨hp, Nat.le_of_lt_succ p.isLt⟩

theorem State.Inv.step {s t : State} (h : s.Inv) (ht : step s = .next t) : t.Inv := by
  by_cases hrun : s.runState = .running
  · rw [step_running hrun] at ht
    exact h.serviceInterrupt.afterFetch.exec ((serviceInterrupt_runState s config).trans hrun) ht
  · cases (step_stopped hrun).symm.trans ht
    exact h

/-- Settles O7: the check, the fetch and the instruction each keep it. -/
theorem stepKeepsInvariant : Obligations.StepKeepsInvariant := fun _ _ h ht => h.step ht

/-! ### Reset and the host's events -/

/-- Settles O9. -/
theorem resetHasInvariant : Obligations.ResetHasInvariant :=
  .of_unfaulted ⟨rfl, by decide⟩ rfl rfl

/-- Settles O10: every field is the table's by definition, and an empty memory reads the fill. -/
theorem resetLeavesTabulatedValues : Obligations.ResetLeavesTabulatedValues := by
  refine ⟨rfl, rfl, rfl, rfl, rfl, rfl, fun r => ?registers, rfl, rfl, rfl, rfl, rfl, fun _ => rfl, fun _ => rfl⟩
  case registers => cases r <;> rfl

theorem State.Inv.queueInterrupt {s : State} (h : s.Inv) (v : BitVec 3) (delay : Nat) :
    (s.queueInterrupt v delay).Inv :=
  h.of_parts ((queueInterrupt_mem s v delay).symm ▸ h.memCanonical) (queueInterrupt_fault ..)
    (queueInterrupt_runState ..) (congrArg OutLatches.out4 (queueInterrupt_out ..))

/-- An image of good size keeps memory canonical; a bad size leaves a record that fits (70_reset_and_hazards.md
R292). -/
theorem State.Inv.loadROM {s t : State} {data : List Byte} (h : s.Inv) (ht : s.loadROM data = some t) : t.Inv := by
  unfold State.loadROM at ht
  split_ifs at ht with haccepted hbad
  · cases ht
    exact ⟨h.memCanonical, by simp, by rintro _ ⟨⟩; exact hbad, h.out4Untouched⟩
  · cases ht
    have hwf : Memory.wf (memSetAll s.mem config.romBase.toNat data) = true :=
      memSetAll_wf h.memCanonical _ data (by simp at hbad ⊢; omega)
    exact h.of_parts hwf rfl rfl rfl

theorem State.Inv.setInput {s t : State} {index : Nat} {value : Byte} (h : s.Inv)
    (ht : s.setInput index value = some t) : t.Inv := by
  unfold State.setInput at ht
  split at ht <;> cases ht <;> exact h.of_parts h.memCanonical rfl rfl rfl

theorem State.Inv.event {s t : State} {e : Event} (h : s.Inv) (ht : s.event e = some t) : t.Inv := by
  cases e with
  | reset => cases ht; exact resetHasInvariant.of_parts rfl rfl rfl rfl
  | loadROM data => exact h.loadROM ht
  | step =>
    simp only [State.event] at ht
    split at ht <;> cases ht
    exact h.step ‹_›
  | queueInterrupt vector delay =>
    simp only [State.event, State.hostQueueInterrupt] at ht
    split at ht <;> cases ht
    exact h.queueInterrupt _ _
  | frameTick => cases ht; exact (h.queueInterrupt _ _).queueInterrupt _ _
  | frameTickMid | frameTickEnd => cases ht; exact h.queueInterrupt _ _
  | setInput index value => exact h.setInput ht
  | getOutput index =>
    obtain ⟨_, _, rfl⟩ := Option.map_eq_some_iff.1 ht
    exact h
  | getRAM x => cases ht; exact h

/-- Settles O8, by induction on the events: a refused one leaves the state as it was. -/
theorem eventsKeepInvariant : Obligations.EventsKeepInvariant := by
  intro s events h
  induction events generalizing s with
  | nil => exact h
  | cons e rest ih =>
    refine ih _ ?_
    cases ht : s.event e with
    | none => exact h
    | some t => exact h.event ht

/-! ### The Step that meets one of the twelve bytes -/

/-- Settles O57: the record of an instruction that is none of the twelve is the state's, which has none, or PortRange;
an instruction of the twelve raises in the state after the fetch. -/
theorem exactlyTwelveBytesAreUnrecognized : Obligations.ExactlyTwelveBytesAreUnrecognized := by
  intro s t hrun hfault hnotDue ht op
  have hcheck : s.serviceInterrupt config = s := serviceInterrupt_none config (dueRequest_eq_none.2 hnotDue)
  rw [step_running hrun, hcheck] at ht
  have hnotTwelve (hi : unimplementedByte (s.instrAt s.pc) = none) : op ∉ unimplementedBytes := fun hmem =>
    nomatch hi.symm.trans (unimplementedByte_decode_of_mem hmem _ _)
  obtain ⟨hsame, _, hi⟩ | ⟨op', hop, rfl⟩ | ⟨p, _, rfl, hi⟩ := exec_fault ht
  · have hnoRecord : t.fault = none := hsame.trans hfault
    exact ⟨iff_of_false (by simp [hnoRecord]) (hnotTwelve hi), fun hmem => absurd hmem (hnotTwelve hi)⟩
  · obtain ⟨rfl, hmem⟩ := unimplementedByte_decode.1 hop
    refine ⟨iff_of_true ⟨_, rfl, rfl⟩ hmem, fun _ => ?_⟩
    simp [State.raiseUnrecognized, State.raise, State.pc0, State.afterFetch, op]
  · refine ⟨iff_of_false ?_ (hnotTwelve hi), fun hmem => absurd hmem (hnotTwelve hi)⟩
    rintro ⟨f, ⟨⟩, ⟨⟩⟩

end Sys2Proof.Machine
end
section
/-! The interrupt queue and latch across Steps (60_exceptions.md R261, R263, R268): the check drops the due head alone,
an instruction appends one request at most, and a host's event appends only. -/

namespace Sys2Proof.Machine

/-! ### The queue across the phases of a Step -/

/-- The check drops the head or nothing, and only a due head. -/
theorem serviceInterrupt_queue (s : State) :
    ∃ dropped, s.queue = dropped ++ (s.serviceInterrupt config).queue
      ∧ (dropped = [] ∨ ∃ r, dropped = [r] ∧ s.ie = true ∧ r.target ≤ s.icount) := by
  obtain hsame | ⟨r, q, hie, htarget, hq, hentered⟩ := serviceInterrupt_cases s config
  · exact ⟨[], by rw [hsame]; rfl, .inl rfl⟩
  · exact ⟨[r], by rw [hentered, enterInterrupt_queue, hq]; rfl, .inr ⟨r, rfl, hie, htarget⟩⟩

/-- With a due head the check drops it. -/
theorem serviceInterrupt_queue_of_due {s : State} {r : Request} {q : List Request} (hie : s.ie = true)
    (hq : s.queue = r :: q) (htarget : r.target ≤ s.icount) : (s.serviceInterrupt config).queue = q := by
  have hdue : s.dueRequest = some r := dueRequest_eq_some.2 ⟨hie, htarget, q, hq⟩
  rw [serviceInterrupt_some config hdue, enterInterrupt_queue, hq, List.tail_cons]

/-- With a head still to come the check does nothing. -/
theorem serviceInterrupt_of_lt_target {s : State} {r : Request} {q : List Request} (hq : s.queue = r :: q)
    (htarget : s.icount < r.target) : s.serviceInterrupt config = s := by
  refine serviceInterrupt_none config (dueRequest_eq_none.2 fun r' q' hq' _ => ?_)
  cases hq.symm.trans hq'
  exact htarget

/-- An instruction appends nothing, or with IE = 1 one request whose target is the present count. -/
theorem exec_appends {i : Instr} {s t : State} (h : exec i s = .next t) :
    ∃ added, t.queue = s.queue ++ added
      ∧ (added = [] ∨ ∃ n, added = [{ vector := n, target := t.icount }] ∧ s.ie = true) := by
  obtain ⟨hkept | ⟨n, _, hie, happended⟩, _, hcount, _, _⟩ := exec_queue h
  · exact ⟨[], by simp [hkept], .inl rfl⟩
  · exact ⟨_, happended, .inr ⟨n, by rw [hcount], hie⟩⟩

/-- The same of a Running Step, after its check. -/
theorem step_appends {s t : State} (hrun : s.runState = .running) (h : step s = .next t) :
    ∃ added, t.queue = (s.serviceInterrupt config).queue ++ added
      ∧ (added = [] ∨ ∃ n, added = [{ vector := n, target := t.icount }] ∧ s.ie = true) := by
  rw [step_running hrun] at h
  simpa only [afterFetch_queue, afterFetch_ie, serviceInterrupt_ie] using exec_appends h

theorem queueInterrupt_appends (s : State) (v : BitVec 3) (delay : Nat) :
    ∃ added, (s.queueInterrupt v delay).queue = s.queue ++ added := by
  rw [queueInterrupt_queue]
  split
  · exact ⟨_, rfl⟩
  · exact ⟨[], (List.append_nil _).symm⟩

theorem frameTick_appends (s : State) : ∃ added, s.frameTick.queue = s.queue ++ added := by
  obtain ⟨mid, hmid⟩ := queueInterrupt_appends s config.tickVectorMid config.tickDelayMid
  obtain ⟨last, hlast⟩ := queueInterrupt_appends s.frameTickMid config.tickVectorEnd config.tickDelayEnd
  exact ⟨mid ++ last, hlast.trans (by rw [State.frameTickMid, hmid, List.append_assoc])⟩

/-- Settles O12: what the check drops stands in front, what the instruction or the host appends stands behind. -/
theorem queueIsFifoAcrossSteps : Obligations.QueueIsFifoAcrossSteps := by
  refine ⟨fun s t h => ?step, fun s t r q hrun hie hq htarget h => ?due, queueInterrupt_appends, frameTick_appends⟩
  case step =>
    by_cases hrun : s.runState = .running
    · obtain ⟨dropped, hdropped, honlyDue⟩ := serviceInterrupt_queue s
      obtain ⟨added, hadded, honlyOne⟩ := step_appends hrun h
      exact ⟨dropped, _, added, hdropped, hadded, honlyDue, honlyOne⟩
    · cases (step_stopped hrun).symm.trans h
      exact ⟨[], s.queue, [], rfl, (List.append_nil _).symm, .inl rfl, .inl rfl⟩
  case due =>
    obtain ⟨added, hadded, _⟩ := step_appends hrun h
    exact ⟨added, serviceInterrupt_queue_of_due hie hq htarget ▸ hadded⟩

/-! ### A head whose target is still to come -/

/-- A Step before the head's target keeps the whole queue in front. -/
theorem step_appends_of_lt_target {s t : State} {r : Request} {q : List Request} (hq : s.queue = r :: q)
    (htarget : s.icount < r.target) (h : step s = .next t) :
    (∃ added, t.queue = s.queue ++ added) ∧ t.icount ≤ s.icount + 1 := by
  obtain ⟨t', ht', hcounts, hstopped⟩ := stepAnswersAndCountsOne s
  cases h.symm.trans ht'
  by_cases hrun : s.runState = .running
  · obtain ⟨added, hadded, _⟩ := step_appends hrun h
    rw [serviceInterrupt_of_lt_target hq htarget] at hadded
    exact ⟨⟨added, hadded⟩, (hcounts hrun).le⟩
  · rw [hstopped hrun]
    exact ⟨⟨[], (List.append_nil _).symm⟩, Nat.le_succ _⟩

/-- A host's event other than Reset appends to the queue and does not count. -/
theorem hostEvent_appends {s t : State} {e : Event} (hreset : e ≠ .reset) (hstep : e ≠ .step) (h : s.event e = some t) :
    (∃ added, t.queue = s.queue ++ added) ∧ t.icount = s.icount := by
  have hsame : ∃ added, s.queue = s.queue ++ added := ⟨[], (List.append_nil _).symm⟩
  cases e with
  | reset => exact absurd rfl hreset
  | step => exact absurd rfl hstep
  | loadROM data =>
    simp only [State.event, State.loadROM] at h
    split_ifs at h <;> cases h <;> exact ⟨hsame, rfl⟩
  | queueInterrupt vector delay =>
    simp only [State.event, State.hostQueueInterrupt] at h
    split at h <;> cases h
    exact ⟨queueInterrupt_appends .., queueInterrupt_icount ..⟩
  | frameTick =>
    cases h
    exact ⟨frameTick_appends s, (queueInterrupt_icount ..).trans (queueInterrupt_icount ..)⟩
  | frameTickMid | frameTickEnd =>
    cases h
    exact ⟨queueInterrupt_appends .., queueInterrupt_icount ..⟩
  | setInput index value =>
    simp only [State.event, State.setInput] at h
    split at h <;> cases h <;> exact ⟨hsame, rfl⟩
  | getOutput index =>
    obtain ⟨_, _, rfl⟩ := Option.map_eq_some_iff.1 h
    exact ⟨hsame, rfl⟩
  | getRAM x => cases h; exact ⟨hsame, rfl⟩

/-- The same of any event but Reset, when the target is at least as many Steps away as the event is. -/
theorem event_appends {s t : State} {e : Event} {r : Request} {q : List Request} (hq : s.queue = r :: q)
    (hreset : e ≠ .reset) (htarget : s.icount + (if e == .step then 1 else 0) ≤ r.target) (h : s.event e = some t) :
    (∃ added, t.queue = s.queue ++ added) ∧ t.icount ≤ s.icount + if e == .step then 1 else 0 := by
  by_cases he : e = .step
  · subst he
    simp only [State.event] at h
    split at h <;> cases h
    exact step_appends_of_lt_target hq htarget ‹_›
  · obtain ⟨happends, hsame⟩ := hostEvent_appends hreset he h
    exact ⟨happends, by simp [hsame]⟩

/-- Settles O13, by induction on the events: each Step takes one from what the target is away, and only a Step with
nothing left to take enters the head. -/
theorem requestIsNeverEnteredEarly : Obligations.RequestIsNeverEnteredEarly := by
  intro events s r q hq hreset htarget
  induction events generalizing s q with
  | nil => exact ⟨[], hq.trans (List.append_nil _).symm⟩
  | cons e rest ih =>
    obtain ⟨hne, hrest⟩ : Event.reset ≠ e ∧ Event.reset ∉ rest := by simpa using hreset
    rw [List.count_cons] at htarget
    cases ht : s.event e with
    | none => simpa only [State.run, ht, Option.getD_none] using ih s q hq hrest (by omega)
    | some t =>
      obtain ⟨⟨added, hadded⟩, hcount⟩ := event_appends hq hne.symm (by omega) ht
      rw [hq] at hadded
      obtain ⟨later, hlater⟩ := ih t (q ++ added) hadded hrest (by omega)
      refine ⟨added ++ later, ?_⟩
      simpa only [State.run, ht, Option.getD_some, List.append_assoc, List.cons_append] using hlater

/-! ### The latch -/

/-- Settles O14: the check keeps IE, and of the instructions EI and DI alone write it. -/
theorem onlyEiAndDiChangeIE : Obligations.OnlyEiAndDiChangeIE := by
  intro s t h hchanged u
  by_cases hrun : s.runState = .running
  · rw [step_running hrun] at h
    obtain ⟨_, hie, _, _, _⟩ := exec_queue h
    rw [afterFetch_ie, serviceInterrupt_ie] at hie
    exact hie.resolve_left hchanged
  · cases (step_stopped hrun).symm.trans h
    exact absurd rfl hchanged

/-! ### RST -/

/-- Settles O47: the delay 0 makes the target the present count. -/
theorem rstQueuesARequest : Obligations.RstQueuesARequest := fun _ _ => rfl

theorem decode_rst (n : BitVec 3) (b2 b3 : Byte) : decode (0b11#2 ++ n ++ 0b111#3) b2 b3 = .rst n := by
  rcases threeBits_cases n with rfl | rfl | rfl | rfl | rfl | rfl | rfl | rfl <;> rfl

/-- Settles O18: the first Step queues a request whose target is the count it leaves, so the second enters it. -/
theorem rstIsServedAtTheNextStep : Obligations.RstIsServedAtTheNextStep := by
  intro s n hwf hrun hie hq hop
  have hcheck : s.serviceInterrupt config = s := serviceInterrupt_none config (dueRequest_eq_none.2 (by simp [hq]))
  have hinstr : s.instrAt s.pc = .rst n := by rw [State.instrAt, hop, decode_rst]
  obtain ⟨t, hstep, ht⟩ : ∃ t, step s = .next t ∧ t = { s with
      pc := s.pc + 1, icount := s.icount + 1, queue := [{ vector := n, target := s.icount + 1 }] } := by
    refine ⟨_, ?_, rfl⟩
    rw [step_running hrun, hcheck, hinstr, rstQueuesARequest, afterFetch_ie, if_pos hie, afterFetch_queue, hq]
    rfl
  have hpc : t.pc = s.pc + 1 := by rw [ht]
  obtain ⟨u, hu, hword, hnext⟩ := stepEntersDueInterrupt t { vector := n, target := s.icount + 1 } [] (ht ▸ hwf)
    (ht ▸ hrun) (ht ▸ hie) (by rw [ht]) (by rw [ht])
  exact ⟨t, u, hstep, ht, hu, hpc ▸ hword, hnext⟩

end Sys2Proof.Machine
end
section
/-! Memory (20_memory.md R50 to R62): the canonical form is unique, words are little-endian, the array is mirrored, an
image is placed, and the host reads. -/

namespace Sys2Proof.Machine

/-! ### The canonical form -/

theorem memWfFrom_cons {lo i : Nat} {v : Byte} {rest : List Host.Cell} :
    memWfFrom lo ((i, v) :: rest) = true
      ↔ lo ≤ i ∧ i < config.memSize ∧ v ≠ memFill ∧ memWfFrom (i + 1) rest = true := by
  simp only [memWfFrom, Bool.and_eq_true, decide_eq_true_eq, and_assoc]

/-- A canonical memory that begins at `i` does not read like one that begins later or is empty: the byte at `i` is not
the fill. -/
theorem memGet_cons_ne {lo lo' i : Nat} {v : Byte} {rest m' : List Host.Cell}
    (h : memWfFrom lo ((i, v) :: rest) = true) (h' : memWfFrom lo' m' = true) (hlt : i < lo') :
    memGet ((i, v) :: rest) i ≠ memGet m' i := by
  obtain ⟨_, _, hv, _⟩ := memWfFrom_cons.1 h
  rwa [memGet_below h' hlt, memGet, if_pos rfl]

/-- Canonical memories with equal first indices that read alike have equal first bytes, and read alike after them. -/
theorem memGet_congr_cons {i : Nat} {v v' : Byte} {rest rest' : List Host.Cell} (h : memWfFrom (i + 1) rest = true)
    (h' : memWfFrom (i + 1) rest' = true) (hread : ∀ k, memGet ((i, v) :: rest) k = memGet ((i, v') :: rest') k) :
    v = v' ∧ ∀ k, memGet rest k = memGet rest' k := by
  refine ⟨by simpa only [memGet, if_true] using hread i, fun k => ?_⟩
  by_cases hk : k = i
  · rw [memGet_below h (by omega), memGet_below h' (by omega)]
  · simpa only [memGet, if_neg hk] using hread k

/-- A canonical list is the only one that reads as it does, by induction on it: the first index of each is the first
index that does not read the fill. -/
theorem eq_of_memGet_eq {m m' : List Host.Cell} {lo : Nat} (h : memWfFrom lo m = true) (h' : memWfFrom lo m' = true)
    (hread : ∀ k, memGet m k = memGet m' k) : m = m' := by
  induction m generalizing m' lo with
  | nil =>
    match m' with
    | [] => rfl
    | (j, w) :: rest' => exact absurd (hread j).symm (memGet_cons_ne (lo' := j + 1) h' rfl (Nat.lt_succ_self j))
  | cons c rest ih =>
    obtain ⟨i, v⟩ := c
    match m' with
    | [] => exact absurd (hread i) (memGet_cons_ne (lo' := i + 1) h rfl (Nat.lt_succ_self i))
    | (j, w) :: rest' =>
      obtain ⟨_, hi, hv, hrest⟩ := memWfFrom_cons.1 h
      obtain ⟨_, hj, hw, hrest'⟩ := memWfFrom_cons.1 h'
      obtain hlt | rfl | hgt := Nat.lt_trichotomy i j
      · exact absurd (hread i) (memGet_cons_ne h (memWfFrom_cons.2 ⟨le_refl j, hj, hw, hrest'⟩) hlt)
      · obtain ⟨rfl, hreads⟩ := memGet_congr_cons hrest hrest' hread
        rw [ih hrest hrest' hreads]
      · exact absurd (hread j).symm (memGet_cons_ne h' (memWfFrom_cons.2 ⟨le_refl i, hi, hv, hrest⟩) hgt)

/-- Settles O22. -/
theorem memoryFormIsCanonical : Obligations.MemoryFormIsCanonical := fun _ _ h h' hread => eq_of_memGet_eq h h' hread

/-! ### Words -/

/-- A word's low byte stands at its address, its high byte at the next one. -/
theorem memRead16_toNat (s : State) (x : Word) :
    (s.memRead16 x).toNat = (s.memRead x).toNat + 256 * (s.memRead (x + 1)).toNat := by
  rw [State.memRead16, joinBytes_toNat, Nat.add_comm]

/-- Addresses 0x4000 apart reach the same index (R51). -/
theorem memIndex_add_memSize (x : Word) : memIndex (x + 0x4000) = memIndex x := by
  have hsize : (0x4000 : Word).toNat = 16384 := rfl
  simp only [memIndex, config_memSize, BitVec.toNat_add, hsize]
  omega

/-- Settles O23: the third clause is the first at 0xFFFF, whose next address is 0x0000. -/
theorem wordAccessLaws : Obligations.WordAccessLaws := by
  refine ⟨memRead16_toNat, fun s x v hwf => ?_, fun s => memRead16_toNat s 0xFFFF,
    fun s x => congrArg (memGet s.mem) (memIndex_add_memSize x)⟩
  have hword := writesWord_memWrite16 hwf x v
  exact ⟨hword, memRead16_of_writesWord hword⟩

/-! ### The host's view -/

/-- Settles O59: an accepted image is placed by the law of consecutive writes from index 0. -/
theorem loadRomPlacesTheImage : Obligations.LoadRomPlacesTheImage := by
  intro s data hwf
  refine ⟨fun hrefused => if_neg (by tauto), fun hcount hrun hbad => ?malformed, fun hcount hrun hlo hhi => ?accepted⟩
  case malformed => exact (if_pos ⟨hcount, hrun⟩).trans (if_pos hbad)
  case accepted =>
    refine ⟨_, (if_pos ⟨hcount, hrun⟩).trans (if_neg (not_or.2 ⟨by omega, Nat.not_lt.2 hhi⟩)), rfl, fun x => ?_⟩
    have hplaced := memGet_memSetAll hwf 0 (memIndex x) data (by simpa using hhi)
    simpa [State.memRead, memIndex] using hplaced

/-- The window's addresses reach consecutive indices (R57). -/
theorem memIndex_vramBase_add {k : Nat} (hk : k < config.vramLen) :
    memIndex (config.vramBase + BitVec.ofNat 16 k) = 0x2400 + k := by
  have hlen : k < 7168 := hk
  have hbase : config.vramBase.toNat = 0x2400 := rfl
  simp only [memIndex, config_memSize, BitVec.toNat_add, BitVec.toNat_ofNat, hbase]
  omega

theorem videoWindow_getElem? (s : State) {k : Nat} (hk : k < config.vramLen) :
    s.videoWindow[k]? = some (memGet s.mem (0x2400 + k)) := by
  rw [State.videoWindow, List.getElem?_map, List.getElem?_range hk, Option.map_some, State.memRead,
    memIndex_vramBase_add hk]

theorem event_setInput (s : State) (index : Nat) (v : Byte) :
    s.event (.setInput index v)
      = if index = 0 then some { s with inp := { s.inp with in0 := v } }
        else if index = 1 then some { s with inp := { s.inp with in1 := v } }
        else if index = 2 then some { s with inp := { s.inp with in2 := v } }
        else if index = 3 then some { s with inp := { s.inp with in3 := v } }
        else none := by
  match index with
  | 0 | 1 | 2 | 3 => rfl
  | n + 4 => simp [State.event, State.setInput]

/-- `GetOutput` reads the list of the seven latches. -/
theorem getOutput_eq_getElem? (s : State) (index : Nat) :
    s.getOutput index
      = [s.out.out0, s.out.out1, s.out.out2, s.out.out3, s.out.out4, s.out.out5, s.out.out6][index]? := by
  match index with
  | 0 | 1 | 2 | 3 | 4 | 5 | 6 => rfl
  | n + 7 => rfl

theorem event_getOutput (s : State) (index : Nat) :
    s.event (.getOutput index) = if index < 7 then some s else none := by
  simp only [State.event, getOutput_eq_getElem?]
  split
  · next hlt => rw [List.getElem?_eq_getElem hlt, Option.map_some]
  · next hge => rw [List.getElem?_eq_none (Nat.le_of_not_lt hge), Option.map_none]

/-- Settles O60. -/
theorem hostPortAndMemoryEvents : Obligations.HostPortAndMemoryEvents := fun s index v _ =>
  ⟨event_setInput s index v, getOutput_eq_getElem? s index, event_getOutput s index, rfl, rfl,
    (List.length_map _).trans List.length_range, fun _ hk => videoWindow_getElem? s hk⟩

/-- A vector outside 0 to 7 is refused (60_exceptions.md R258). -/
theorem event_queueInterrupt (s : State) (vector delay : Nat) :
    s.event (.queueInterrupt vector delay)
      = if 8 ≤ vector then none else some (s.queueInterrupt (BitVec.ofNat 3 vector) delay) := by
  by_cases hvector : vector < 8
  · rw [if_neg (Nat.not_le.2 hvector)]
    exact if_pos hvector
  · rw [if_pos (Nat.le_of_not_lt hvector)]
    exact if_neg hvector

theorem frameTick_eq (s : State) : s.frameTick = { s with queue := s.frameTick.queue } := by
  unfold State.frameTick State.frameTickMid State.frameTickEnd State.queueInterrupt
  split_ifs <;> rfl

/-- With IE = 0 both requests of a tick are lost. -/
theorem frameTick_queue_of_masked {s : State} (hie : s.ie = false) : s.frameTick.queue = s.queue := by
  have hmid : s.frameTickMid.queue = s.queue := by simp [State.frameTickMid, queueInterrupt_queue, hie]
  have hmidIe : s.frameTickMid.ie = false := (queueInterrupt_ie ..).trans hie
  rw [State.frameTick, State.frameTickEnd, queueInterrupt_queue, hmidIe, hmid]
  rfl

/-- Settles O58: a request is appended with IE = 1 and lost with IE = 0, the tick's two in order. -/
theorem requestsAreGatedByIE : Obligations.RequestsAreGatedByIE := by
  refine fun s vector delay => ⟨event_queueInterrupt s vector delay, congrArg some ((frameTick_eq s).trans ?_)⟩
  split_ifs with hie
  · rw [frameTick_queue_of_ie hie]
  · rw [frameTick_queue_of_masked (Bool.eq_false_iff.2 hie)]

end Sys2Proof.Machine
end
section
/-! Data transfer and the stack (40_data_transfer.md R111 to R123; 44_stack_control.md R210 to R221; 10_state.md R30):
each form as the named operations it is made of. -/

namespace Sys2Proof.Machine

/-! ### Register and byte moves -/

@[simp] theorem getReg_advance (s : State) (n : Word) (r : Reg) : (s.advance n).getReg r = s.getReg r := by
  cases r <;> rfl

@[simp] theorem getReg_replaceFlags (s : State) (f : Flags) (r : Reg) :
    { s with flags := f }.getReg r = s.getReg r := by
  cases r <;> rfl

theorem setReg_advance_eq_regsFrom (s : State) (r : Reg) (v : Byte) (n : Word) :
    (s.setReg r v).advance n = { s.regsFrom ((s.setReg r v).advance n) with pc := s.pc + n } := by
  cases r <;> rfl

theorem writesReg_setReg_advance (s : State) (r : Reg) (v : Byte) (n : Word) :
    State.WritesReg s ((s.setReg r v).advance n) r v := by
  simpa only [State.WritesReg, getReg_advance] using writesReg_setReg s r v

/-- Settles O29: a move is a register write or a byte store. -/
theorem movAndMviCopyOneByte : Obligations.MovAndMviCopyOneByte := fun s dst _ d8 hwf =>
  ⟨⟨_, rfl, setReg_eq_regsFrom .., writesReg_setReg ..⟩,
    ⟨_, rfl, setReg_eq_regsFrom .., writesReg_setReg ..⟩,
    ⟨_, rfl, rfl, writesByte_memWrite hwf _ _⟩,
    ⟨_, rfl, setReg_advance_eq_regsFrom s dst d8 1, writesReg_setReg_advance s dst d8 1⟩,
    ⟨_, rfl, rfl, writesByte_memWrite hwf _ _⟩⟩

/-- Settles O30. -/
theorem lxiLoadsPair : Obligations.LxiLoadsPair := fun _ _ => ⟨rfl, rfl, rfl, rfl⟩

/-! ### Loads and stores -/

theorem hiByte_memRead16 (s : State) (x : Word) : hiByte (s.memRead16 x) = s.memRead (x + 1) := hiByte_joinBytes ..

theorem loByte_memRead16 (s : State) (x : Word) : loByte (s.memRead16 x) = s.memRead x := loByte_joinBytes ..

/-- Settles O31: a loaded word is taken apart into the bytes it was joined from. -/
theorem loadsTakeAddressedBytes : Obligations.LoadsTakeAddressedBytes := by
  refine fun s x => ⟨rfl, ?_, rfl, rfl⟩
  rw [← hiByte_memRead16, ← loByte_memRead16]
  rfl

/-- Settles O32. -/
theorem storesWriteAddressedBytes : Obligations.StoresWriteAddressedBytes := fun _ _ hwf =>
  ⟨⟨_, rfl, rfl, writesByte_memWrite hwf _ _⟩, ⟨_, rfl, rfl, writesWord_memWrite16 hwf _ _⟩,
    ⟨_, rfl, rfl, writesByte_memWrite hwf _ _⟩, ⟨_, rfl, rfl, writesByte_memWrite hwf _ _⟩⟩

/-- Settles O33. -/
theorem xchgAndSphl : Obligations.XchgAndSphl := fun _ => ⟨rfl, rfl⟩

/-! ### The PSW byte -/

/-- A packed byte unpacks to its flags (R30). -/
theorem pswUnpack_pswPack (f : Flags) : pswUnpack (pswPack f) = f := by
  obtain ⟨z, s, p, cy, ac⟩ := f
  revert z s p cy ac
  decide

/-- Settles O27: over the 32 values of the flags and the 256 bytes. -/
theorem pswPackAndUnpack : Obligations.PswPackAndUnpack := by
  refine ⟨fun ⟨z, s, p, cy, ac⟩ => ?weights, pswUnpack_pswPack, by decide⟩
  case weights =>
    revert z s p cy ac
    decide

/-! ### The stack -/

/-- Settles O48. -/
theorem pushForms : Obligations.PushForms := fun _ _ hwf _ =>
  ⟨⟨_, rfl, rfl, writesWord_push16 hwf _⟩, ⟨_, rfl, rfl, writesWord_push16 hwf _⟩⟩

/-- Settles O49: a popped word is taken apart into the bytes it was joined from. -/
theorem popForms : Obligations.PopForms := by
  intro s lo hi
  have hlo : loByte s.top16 = lo := loByte_memRead16 s s.sp
  have hhi : hiByte s.top16 = hi := hiByte_memRead16 s s.sp
  rw [← hlo, ← hhi]
  exact ⟨rfl, rfl, rfl, rfl⟩

/-- Settles O50. -/
theorem xthlExchangesStackTop : Obligations.XthlExchangesStackTop := by
  refine fun s hwf => ⟨_, rfl, ?_, writesWord_memWrite16 hwf s.sp s.hl⟩
  rw [← hiByte_memRead16, ← loByte_memRead16]
  rfl

/-- The word pushed last is the one on top. -/
theorem top16_push16 {s : State} (hwf : Memory.wf s.mem = true) (v : Word) : (s.push16 v).top16 = v :=
  memRead16_of_writesWord (writesWord_push16 hwf v)

theorem dropTop_push16_sp (s : State) (v : Word) : (s.push16 v).dropTop.sp = s.sp := by
  rw [dropTop_sp, push16_sp, BitVec.sub_add_cancel]

/-- Settles O25: the popped word is the pushed one, and a pair other than SP leaves SP where the pop put it. -/
theorem pushThenPopRoundTrips : Obligations.PushThenPopRoundTrips := by
  refine ⟨fun s rp rp' hwf _ hrp' => ⟨_, _, rfl, rfl, ?pair, ?sp⟩, fun s hwf => ⟨_, _, rfl, rfl, ?a, ?flags, ?psw⟩⟩
  case pair => rw [getPair_setPair, top16_push16 hwf]
  case sp =>
    obtain ⟨_, _, hsp⟩ := writesPair_setPair (s.push16 (s.getPair rp)).dropTop rp' (s.push16 (s.getPair rp)).top16
    rw [hsp hrp', dropTop_push16_sp]
  case a => simp only [top16_push16 hwf, hiByte_joinBytes]
  case flags => simp only [top16_push16 hwf, loByte_joinBytes, pswUnpack_pswPack]
  case psw => exact dropTop_push16_sp s _

/-! ### Control transfer and machine control -/

/-- A conditional jump, its condition said as a proposition about a flag (43_branch.md R190, R192). -/
theorem exec_jcond {ccc : Cond} {p : Prop} [Decidable p] {s : State} (h : s.flags.cond ccc = true ↔ p) (x : Word) :
    exec (.jcond ccc x) s = if p then .next { s with pc := x } else .next { s with pc := s.pc + 2 } := by
  simp only [exec, execJcond, h]
  split <;> rfl

/-- Settles O44: each condition is its flag or the flag's negation. -/
theorem jumpsGoToTheirTarget : Obligations.JumpsGoToTheirTarget := fun _ x =>
  ⟨rfl, rfl, exec_jcond (by simp [Flags.cond]) x, exec_jcond Iff.rfl x, exec_jcond (by simp [Flags.cond]) x,
    exec_jcond Iff.rfl x, exec_jcond (by simp [Flags.cond]) x, exec_jcond Iff.rfl x,
    exec_jcond (by simp [Flags.cond]) x, exec_jcond Iff.rfl x⟩

/-- Settles O45: PC is `pc0 + 1` when a call runs, so the next instruction is at PC + 2. -/
theorem callsPushTheReturnAddress : Obligations.CallsPushTheReturnAddress := by
  intro s ccc x hwf
  have hret : s.pc - 1 + 3 = s.pc + 2 := by bv_omega
  have hcall (t : State) (ht : t = s.callTo (s.pc + 2) x) :
      t = { s with sp := s.sp - 2, mem := t.mem, pc := x } ∧ State.WritesWord s t (s.sp - 2) (s.pc + 2) := by
    subst ht
    exact ⟨rfl, writesWord_push16 hwf _⟩
  rw [hret]
  refine ⟨⟨_, rfl, hcall _ rfl⟩, fun hcond => ⟨_, rfl, hcall _ (if_pos hcond)⟩, fun hcond => ?_⟩
  simp only [exec, execCcond, hcond]
  rfl

/-- Settles O46. -/
theorem returnsPopPc : Obligations.ReturnsPopPc := fun _ _ => ⟨rfl, rfl⟩

/-- Settles O51. -/
theorem machineControl : Obligations.MachineControl := fun _ => ⟨rfl, rfl, rfl, rfl⟩

/-- Settles O56. -/
theorem unimplementedInstructionsAreFatal : Obligations.UnimplementedInstructionsAreFatal := fun _ =>
  ⟨rfl, rfl, rfl, rfl, rfl, rfl, rfl, rfl, rfl, rfl, rfl, rfl⟩

end Sys2Proof.Machine
end
section
/-! The ALU (41_arithmetic.md R130 to R152; 42_logical.md R160 to R178): each shared operation on A said once over
natural numbers, PC past the operand byte of an immediate form included. -/

namespace Sys2Proof.Machine

/-! ### Add and subtract -/

/-- A form with no operand byte passes none. -/
theorem advance_zero (s : State) : s.advance 0 = s := by simp [State.advance]

theorem addToA_advance (s : State) (v : Byte) (cin : Bool) (n : Word) :
    (s.addToA v cin).advance n
      = { s with
          a := BitVec.ofNat 8 (s.a.toNat + v.toNat + cin.toNat)
          flags := resultFlags ((s.a.toNat + v.toNat + cin.toNat) % 256)
            (decide (255 < s.a.toNat + v.toNat + cin.toNat)) (decide (15 < s.a.toNat % 16 + v.toNat % 16 + cin.toNat))
          pc := s.pc + n } := by
  rw [← flags_ofNat]
  rfl

/-- Settles O34: the six forms are `addToA` with their operand, carry-in and operand bytes. -/
theorem addFormsGiveSumAndFlags : Obligations.AddFormsGiveSumAndFlags := by
  intro s r d8 after m cy
  have hafter (v : Byte) (cin : Bool) (n : Word) : (s.addToA v cin).advance n = after v cin.toNat n :=
    addToA_advance s v cin n
  have hone (v : Byte) (cin : Bool) : s.addToA v cin = after v cin.toNat 0 := by rw [← hafter, advance_zero]
  exact ⟨congrArg _ (hone _ false), congrArg _ (hone _ false), congrArg _ (hafter _ false 1), congrArg _ (hone ..),
    congrArg _ (hone ..), congrArg _ (hafter ..)⟩

theorem subFromA_advance (s : State) (v : Byte) (bin : Bool) (n : Word) :
    (s.subFromA v bin).advance n
      = { s with
          a := BitVec.ofNat 8 ((256 + s.a.toNat - v.toNat + 256 - bin.toNat) % 256)
          flags := resultFlags ((256 + s.a.toNat - v.toNat + 256 - bin.toNat) % 256)
            (decide (s.a.toNat < v.toNat + bin.toNat)) (decide (s.a.toNat % 16 < v.toNat % 16 + bin.toNat))
          pc := s.pc + n } := by
  rw [State.subFromA, sub8_eq, flags_ofNat, Nat.mod_mod]
  rfl

/-- Settles O35: the six forms are `subFromA` with their operand, borrow-in and operand bytes. -/
theorem subFormsGiveDifferenceAndFlags : Obligations.SubFormsGiveDifferenceAndFlags := by
  intro s r d8 after m cy
  have hafter (v : Byte) (bin : Bool) (n : Word) : (s.subFromA v bin).advance n = after v bin.toNat n :=
    subFromA_advance s v bin n
  have hone (v : Byte) (bin : Bool) : s.subFromA v bin = after v bin.toNat 0 := by rw [← hafter, advance_zero]
  exact ⟨congrArg _ (hone _ false), congrArg _ (hone _ false), congrArg _ (hafter _ false 1), congrArg _ (hone ..),
    congrArg _ (hone ..), congrArg _ (hafter ..)⟩

/-- A subtraction with no borrow-in is the subtraction of bytes. -/
theorem sub8_res (a b : Byte) : (sub8 a b false).res = a - b := by
  rw [sub8_eq, ← BitVec.toNat_inj, BitVec.toNat_sub, BitVec.toNat_ofNat, Bool.toNat_false]
  have := b.isLt
  omega

/-- The flags of a comparison, over bytes (42_logical.md R169). -/
theorem sub8_flags (a b : Byte) :
    (sub8 a b false).flags
      = { z := decide (a = b)
          s := (a - b).msb
          p := parity (a - b)
          cy := decide (a.toNat < b.toNat)
          ac := decide (a.toNat % 16 < b.toNat % 16) } := by
  have hz : a - b = 0 ↔ a = b := by constructor <;> intro h <;> bv_omega
  simp only [AluResult.flags, sub8_res, hz]
  simp [sub8_eq]

/-- Settles O41. -/
theorem compareFormsSetFlagsOnly : Obligations.CompareFormsSetFlagsOnly := by
  intro s r d8 after
  have hafter (v : Byte) (n : Word) : (s.compareA v).advance n = after v n := by rw [State.compareA, sub8_flags]; rfl
  have hone (v : Byte) : s.compareA v = after v 0 := by rw [← hafter, advance_zero]
  exact ⟨congrArg _ (hone _), congrArg _ (hone _), congrArg _ (hafter _ _)⟩

/-! ### Increment, decrement and pairs -/

theorem add8_one_res (v : Byte) : (add8 v 1 false).res = v + 1 := by
  simp [add8_eq, BitVec.ofNat_add]

/-- The flags of an increment: a nibble carries from 15 alone (41_arithmetic.md R145). -/
theorem add8_one_flagsKeepCY (v : Byte) (f : Flags) :
    (add8 v 1 false).flagsKeepCY f = resultFlags ((v.toNat + 1) % 256) f.cy (decide (v.toNat % 16 = 15)) := by
  have hac : 15 < v.toNat % 16 + 1 ↔ v.toNat % 16 = 15 := by omega
  rw [flagsKeepCY_eq, add8_eq, flags_ofNat]
  simp [resultFlags, hac]

/-- The flags of a decrement: a nibble borrows from 0 alone (41_arithmetic.md R147). -/
theorem sub8_one_flagsKeepCY (v : Byte) (f : Flags) :
    (sub8 v 1 false).flagsKeepCY f = resultFlags ((v.toNat + 255) % 256) f.cy (decide (v.toNat % 16 = 0)) := by
  have hn : (256 + v.toNat - (1 : Byte).toNat + 256 - false.toNat) % 256 = (v.toNat + 255) % 256 := by
    have hone : (1 : Byte).toNat = 1 := rfl
    rw [hone, Bool.toNat_false]
    omega
  rw [flagsKeepCY_eq, sub8_eq, hn, flags_ofNat, Nat.mod_mod]
  simp [resultFlags]

theorem setReg_replaceFlags_eq_regsFrom (s : State) (r : Reg) (v : Byte) (f : Flags) :
    { s.setReg r v with flags := f } = { s.regsFrom { s.setReg r v with flags := f } with flags := f } := by
  cases r <;> rfl

theorem writesReg_setReg_replaceFlags (s : State) (r : Reg) (v : Byte) (f : Flags) :
    State.WritesReg s { s.setReg r v with flags := f } r v := by
  simpa only [State.WritesReg, getReg_replaceFlags] using writesReg_setReg s r v

/-- Settles O36. -/
theorem incrementAndDecrementByte : Obligations.IncrementAndDecrementByte := by
  intro s r hwf up down m
  have hup (v : Byte) : (add8 v 1 false).flagsKeepCY s.flags = up v := add8_one_flagsKeepCY v s.flags
  have hdown (v : Byte) : (sub8 v 1 false).flagsKeepCY s.flags = down v := sub8_one_flagsKeepCY v s.flags
  simp only [exec, execInrR, execInrM, execDcrR, execDcrM, hup, hdown, add8_one_res, sub8_res]
  exact ⟨⟨_, rfl, setReg_replaceFlags_eq_regsFrom .., writesReg_setReg_replaceFlags ..⟩,
    ⟨_, rfl, rfl, writesByte_memWrite hwf _ _⟩,
    ⟨_, rfl, setReg_replaceFlags_eq_regsFrom .., writesReg_setReg_replaceFlags ..⟩,
    ⟨_, rfl, rfl, writesByte_memWrite hwf _ _⟩⟩

theorem setPair_eq_regsFrom (s : State) (rp : RegPair) (v : Word) :
    s.setPair rp v = { s.regsFrom (s.setPair rp v) with sp := (s.setPair rp v).sp } := by
  cases rp <;> rfl

/-- Settles O37: the sums of words are sums of numbers modulo 65536. -/
theorem pairArithmetic : Obligations.PairArithmetic := by
  intro s rp
  have hinc (v : Word) : BitVec.ofNat 16 (v.toNat + 1) = v + 1 := by simp [BitVec.ofNat_add]
  have hdec (v : Word) : BitVec.ofNat 16 (v.toNat + 65535) = v - 1 := by bv_omega
  rw [hinc, hdec]
  refine ⟨⟨_, rfl, setPair_eq_regsFrom .., writesPair_setPair ..⟩,
    ⟨_, rfl, setPair_eq_regsFrom .., writesPair_setPair ..⟩, ⟨_, rfl, rfl, ?_⟩⟩
  exact writesPair_setPair s .hl _

/-! ### Logic and rotates -/

theorem xorA_advance (s : State) (v : Byte) (n : Word) :
    (s.xorA v).advance n
      = { s with a := s.a ^^^ v, flags := resultFlags (s.a ^^^ v).toNat false false, pc := s.pc + n } := by
  rw [← logicFlags_eq]
  rfl

/-- Settles O40. -/
theorem xorFormsClearCarries : Obligations.XorFormsClearCarries := by
  intro s r d8 after
  have hafter (v : Byte) (n : Word) : (s.xorA v).advance n = after (s.a ^^^ v) n := xorA_advance s v n
  have hone (v : Byte) : s.xorA v = after (s.a ^^^ v) 0 := by rw [← hafter, advance_zero]
  exact ⟨congrArg _ (hone _), congrArg _ (hone _), congrArg _ (hafter _ _)⟩

/-- Settles O39: And and Or write the result, its flags and the next undefined bit alike. -/
theorem andOrFormsLeaveACFree : Obligations.AndOrFormsLeaveACFree := by
  intro s r d8 after m
  have hand (v : Byte) (n : Word) : (s.andA v).advance n = after (s.a &&& v) n := by
    rw [State.andA, logicFlags_eq]
    rfl
  have hor (v : Byte) (n : Word) : (s.orA v).advance n = after (s.a ||| v) n := by
    rw [State.orA, logicFlags_eq]
    rfl
  have handOne (v : Byte) : s.andA v = after (s.a &&& v) 0 := by rw [← hand, advance_zero]
  have horOne (v : Byte) : s.orA v = after (s.a ||| v) 0 := by rw [← hor, advance_zero]
  exact ⟨congrArg _ (handOne _), congrArg _ (handOne _), congrArg _ (hand _ _), congrArg _ (horOne _),
    congrArg _ (horOne _), congrArg _ (hor _ _)⟩

/-- The four rotates of a byte, joined from its parts as the rules write them and said in shifts. -/
theorem rotates_eq_shifts (v : Byte) (c : Bool) :
    v.extractLsb' 0 7 ++ bit (v.getLsbD 7) = v.rotateLeft 1
      ∧ bit (v.getLsbD 0) ++ v.extractLsb' 1 7 = v.rotateRight 1
      ∧ v.extractLsb' 0 7 ++ bit c = v <<< 1 ||| (if c then 1 else 0)
      ∧ bit c ++ v.extractLsb' 1 7 = v >>> 1 ||| (if c then 0x80 else 0) := by
  revert v c
  decide

/-- Settles O42. -/
theorem rotatesMoveOneBit : Obligations.RotatesMoveOneBit := by
  intro s after
  obtain ⟨hrlc, hrrc, hral, hrar⟩ := rotates_eq_shifts s.a s.flags.cy
  have hmsb : s.a.msb = s.a.getLsbD 7 := BitVec.msb_eq_getLsbD_last s.a
  simp only [exec, execRlc, execRrc, execRal, execRar, hmsb, hrlc, hrrc, hral, hrar]
  exact ⟨rfl, rfl, rfl, rfl⟩

/-- Settles O43. -/
theorem complementAndCarry : Obligations.ComplementAndCarry := by
  intro s
  have hnot : 255 - s.a = ~~~s.a := by bv_omega
  exact ⟨by rw [hnot]; rfl, rfl, rfl⟩

/-! ### Decimal adjust -/

/-- What DAA adds, as a number (R152). -/
theorem daaCorrection_toNat (a : Byte) (f : Flags) :
    (daaCorrection a f).toNat
      = (if f.ac = true ∨ 9 < a.toNat % 16 then 6 else 0)
        + (if f.cy = true ∨ 9 < a.toNat / 16 ∨ (9 ≤ a.toNat / 16 ∧ 9 < a.toNat % 16) then 96 else 0) := by
  simp only [daaCorrection, Bool.or_eq_true, Bool.and_eq_true, decide_eq_true_eq, or_assoc]
  split_ifs <;> rfl

theorem daaCarry_eq (a : Byte) (f : Flags) :
    daaCarry a f
      = decide (f.cy = true ∨ 9 < a.toNat / 16 ∨ (9 ≤ a.toNat / 16 ∧ 9 < a.toNat % 16)) := by
  simp [daaCarry, Bool.or_assoc]

/-- Settles O38: the correction's low digit is 6 or 0, so bit 3 carries only where 6 meets a digit above 9. -/
theorem daaFollowsItsAlgorithm : Obligations.DaaFollowsItsAlgorithm := by
  intro s lo hi six sixty t
  have hcorrection : (daaCorrection s.a s.flags).toNat = (if six then 6 else 0) + (if sixty then 96 else 0) :=
    daaCorrection_toNat s.a s.flags
  have hsum : s.a.toNat + (daaCorrection s.a s.flags).toNat + false.toNat = t := by
    rw [hcorrection, Bool.toNat_false, Nat.add_zero, ← Nat.add_assoc]
  have hac : 15 < s.a.toNat % 16 + (daaCorrection s.a s.flags).toNat % 16 + false.toNat ↔ six ∧ 9 < lo := by
    rw [hcorrection]
    split_ifs with h6 h60 h60 <;> simp [h6] <;> omega
  simp only [exec, execDaa, add8_eq, flags_ofNat, hsum, hac, daaCarry_eq]
  rfl

/-! ### Decimal sums

Two packed decimal bytes with high digits that add to `h` and low digits that add to `l` have the sum `h * 16 + l` as
bytes and `h * 10 + l` as decimals; `h` and `l` are 18 at most. -/

theorem toNat_ofNat_packedDecimal {x : Nat} (hx : x < 100) :
    (BitVec.ofNat 8 (x / 10 * 16 + x % 10)).toNat = x / 10 * 16 + x % 10 :=
  Nat.mod_eq_of_lt (by omega)

/-- DAA adds 6 exactly where the low digits carry. -/
theorem low_digit_corrected_iff {l : Nat} (h : Nat) (hl : l ≤ 18) :
    15 < l ∨ 9 < (h * 16 + l) % 256 % 16 ↔ 10 ≤ l := by
  omega

/-- DAA adds 96 exactly where the decimal sum reaches 100. -/
theorem high_digit_corrected_iff {h l : Nat} (hh : h ≤ 18) (hl : l ≤ 18) :
    255 < h * 16 + l ∨ 9 < (h * 16 + l) % 256 / 16 ∨ (9 ≤ (h * 16 + l) % 256 / 16 ∧ 9 < (h * 16 + l) % 256 % 16)
      ↔ 100 ≤ h * 10 + l := by
  omega

/-- So the correction leaves the digits of the decimal sum modulo 100, in each of the 19 times 19 cases. -/
theorem corrected_sum : ∀ h ≤ 18, ∀ l ≤ 18,
    ((h * 16 + l) % 256 + (if 10 ≤ l then 6 else 0) + (if 100 ≤ h * 10 + l then 96 else 0)) % 256
      = (h * 10 + l) % 100 / 10 * 16 + (h * 10 + l) % 10 := by
  decide

/-- Settles O28: the addition's carry and nibble carry, and the digits of its result, tell DAA which digits to
correct. -/
theorem daaCorrectsDecimalSum : Obligations.DaaCorrectsDecimalSum := by
  intro s r x y hx hy ha hr
  have haNat : s.a.toNat = x / 10 * 16 + x % 10 := (congrArg _ ha).trans (toNat_ofNat_packedDecimal hx)
  have hrNat : (s.getReg r).toNat = y / 10 * 16 + y % 10 := (congrArg _ hr).trans (toNat_ofNat_packedDecimal hy)
  obtain ⟨h, hh⟩ : ∃ h, h = x / 10 + y / 10 := ⟨_, rfl⟩
  obtain ⟨l, hl⟩ : ∃ l, l = x % 10 + y % 10 := ⟨_, rfl⟩
  have hbytes : s.a.toNat + (s.getReg r).toNat = h * 16 + l := by omega
  have hnibbles : s.a.toNat % 16 + (s.getReg r).toNat % 16 = l := by omega
  have hdecimals : x + y = h * 10 + l := by omega
  have hh18 : h ≤ 18 := by omega
  have hl18 : l ≤ 18 := by omega
  refine ⟨_, _, rfl, daaFollowsItsAlgorithm _, ?_⟩
  simp only [State.addToA, add8_eq, AluResult.flags, hbytes, hnibbles, hdecimals, Bool.toNat_false, Nat.add_zero,
    BitVec.toNat_ofNat, decide_eq_true_eq, resultFlags, Nat.reducePow, low_digit_corrected_iff h hl18,
    high_digit_corrected_iff hh18 hl18, and_true, ← corrected_sum h hh18 l hl18]
  rw [← BitVec.toNat_inj]
  simp only [BitVec.toNat_ofNat, Nat.reducePow, Nat.mod_mod]

end Sys2Proof.Machine
end
section
/-! The ports (45_io_ports.md R231 to R235): the shift window in the rule's forms, and the two port instructions inside
and outside the bank. -/

namespace Sys2Proof.Machine

/-- The window as the rule's quotient (R232). -/
theorem shiftWindow_eq_ofNat (s : State) :
    s.shiftWindow = BitVec.ofNat 8 (s.shift.toNat / 2 ^ (8 - s.out.out2.toNat % 8) % 256) := by
  rw [State.shiftWindow, Nat.shiftRight_eq_div_pow, ← BitVec.toNat_inj]
  simp

/-- The window as the high byte of the word shifted left by the offset (R232): both read bit `8 - n + k` at bit `k`. -/
theorem shiftWindow_eq_hiByte (s : State) : s.shiftWindow = hiByte (s.shift <<< (s.out.out2.toNat % 8)) := by
  have hn : s.out.out2.toNat % 8 < 8 := Nat.mod_lt _ (by decide)
  refine BitVec.eq_of_getLsbD_eq fun k hk => ?_
  rw [getLsbD_shiftWindow s hk, hiByte, BitVec.getLsbD_extractLsb', BitVec.getLsbD_shiftLeft, decide_eq_true hk,
    decide_eq_true (show 8 + k < 16 by omega), decide_eq_false (show ¬ 8 + k < s.out.out2.toNat % 8 by omega),
    show 8 + k - s.out.out2.toNat % 8 = 8 - s.out.out2.toNat % 8 + k by omega]
  rfl

theorem exec_inPort_of_portRead {s : State} {p v : Byte} (h : s.portRead p = some v) :
    exec (.inPort p) s = .next { s with a := v, pc := s.pc + 1 } := by
  simp only [exec, execIn, h]
  rfl

theorem exec_inPort_of_ge {s : State} {p : Byte} (hp : 4 ≤ p.toNat) :
    exec (.inPort p) s = .next (s.raisePortRange p) := by
  simp only [exec, execIn, portRead_eq_none.2 hp]

theorem exec_outPort_of_ge {s : State} {p : Byte} (hp : 7 ≤ p.toNat) :
    exec (.outPort p) s = .next (s.raisePortRange p) := by
  simp only [exec, execOut, portWrite_eq_none.2 hp]

/-- Settles O52. -/
theorem portReadSelects : Obligations.PortReadSelects := by
  intro s n
  refine ⟨rfl, rfl, rfl, congrArg some (shiftWindow_eq_ofNat s), ⟨s.shiftWindow, rfl, shiftWindow_eq_hiByte s,
    fun k hk => getLsbD_shiftWindow s hk, fun h0 => ?_, fun h7 => ?_⟩, fun v p => rfl,
    fun p v => exec_inPort_of_portRead, fun p hp => ⟨portRead_eq_none.2 hp, exec_inPort_of_ge hp⟩⟩
  · exact (shiftWindow_eq_extractLsb' s).trans (congrArg (fun n => s.shift.extractLsb' (8 - n) 8) h0)
  · exact (shiftWindow_eq_extractLsb' s).trans (congrArg (fun n => s.shift.extractLsb' (8 - n) 8) h7)

/-- A load of the shift register as a number (R233): the old high byte is the quotient by 256. -/
theorem loadShift_shift_eq_ofNat (s : State) (v : Byte) :
    (s.loadShift v).shift = BitVec.ofNat 16 (v.toNat * 256 + s.shift.toNat / 256) := by
  have hhi : (hiByte s.shift).toNat = s.shift.toNat / 256 := by
    have hword := joinBytes_toNat (hiByte s.shift) (loByte s.shift)
    have hlo := (loByte s.shift).isLt
    rw [joinBytes_hiByte_loByte] at hword
    omega
  rw [← hhi]
  exact joinBytes_eq_ofNat v (hiByte s.shift)

/-- Settles O53. -/
theorem outWritesThePort : Obligations.OutWritesThePort := by
  refine fun s => ⟨rfl, rfl, rfl, rfl, ?_, rfl, rfl⟩
  rw [← loadShift_shift_eq_ofNat, exec_outPort_four]
  rfl

/-- Settles O54. -/
theorem portOutsideTheBankIsFatal : Obligations.PortOutsideTheBankIsFatal := fun _ _ =>
  ⟨fun hp => exec_inPort_of_ge hp, fun hp => exec_outPort_of_ge hp⟩

end Sys2Proof.Machine
end
section
/-! What every instruction leaves as it was: PC but for its own bytes, input latch 3, and all outside its footprint. -/

namespace Sys2Proof.Machine

/-! ### PC -/

/-- An instruction's bytes are its opcode byte and its operand bytes (30_encoding.md R87). -/
theorem opcodeLength_opcode {i : Instr} (hwf : i.wellFormed = true) :
    opcodeLength i.opcode = i.operandBytes.length + 1 := by
  have hback := decodeBytes_encode hwf []
  simp only [List.append_nil, encode, decodeBytes] at hback
  split at hback <;> simp_all

/-- An instruction other than a transfer passes its operand bytes, unless it took a fatal condition. -/
theorem exec_pc {i : Instr} {s t : State} (hi : isTransfer i = false) (hrun : t.runState ≠ .fatal)
    (h : exec i s = .next t) : t.pc = s.pc + BitVec.ofNat 16 i.operandBytes.length := by
  cases i
  case jmp | jcond | call | ccond | ret | rcond | pchl => cases hi
  case unimpl08 | unimpl10 | unimpl18 | unimpl20 | unimpl28 | unimpl30 | unimpl38 | unimplCB | unimplD9 | unimplDD
      | unimplED | unimplFD => cases h; exact absurd rfl hrun
  case inPort p =>
    simp only [exec, execIn] at h
    split at h <;> cases h
    · rfl
    · exact absurd rfl hrun
  case outPort p =>
    simp only [exec, execOut] at h
    split at h <;> cases h
    · next u hu =>
      obtain ⟨_, rfl⟩ | ⟨_, rfl⟩ | ⟨_, rfl⟩ | ⟨_, rfl⟩ | ⟨_, rfl⟩ | ⟨_, rfl⟩ | ⟨_, rfl⟩ := portWrite_cases hu <;> rfl
    · exact absurd rfl hrun
  case rst n => cases h; exact (queueInterrupt_pc ..).trans (BitVec.add_zero _).symm
  case movRR dst _ | movRM dst | inrR dst | dcrR dst => cases h; cases dst <;> exact (BitVec.add_zero _).symm
  case inx rp | dcx rp | popRp rp => cases h; cases rp <;> exact (BitVec.add_zero _).symm
  case mviR dst _ => cases h; cases dst <;> rfl
  case lxi rp _ => cases h; cases rp <;> rfl
  case mviM | adi | aci | sui | sbi | ani | xri | ori | cpi | lda | sta | lhld | shld => cases h; rfl
  all_goals cases h; exact (BitVec.add_zero _).symm

/-- A fatal condition leaves PC past the opcode byte (60_exceptions.md R253). -/
theorem exec_pc_of_fatal {i : Instr} {s t : State} (hrun : s.runState = .running) (hfatal : t.runState = .fatal)
    (h : exec i s = .next t) : t.pc = s.pc := by
  obtain ⟨_, hkept | ⟨_, hhalted⟩, _⟩ | ⟨_, _, rfl⟩ | ⟨_, _, rfl, _⟩ := exec_fault h
  · exact absurd (hrun.symm.trans (hkept.symm.trans hfatal)) (by decide)
  · exact absurd (hhalted.symm.trans hfatal) (by decide)
  · rfl
  · rfl

/-- Settles O11. -/
theorem pcPassesTheInstruction : Obligations.PcPassesTheInstruction := by
  intro i s t hwf hi hrun h
  split_ifs with hfatal
  · exact exec_pc_of_fatal hrun hfatal h
  · rw [exec_pc hi hfatal h, opcodeLength_opcode hwf, BitVec.ofNat_add]
    bv_omega

/-! ### Input latch 3 -/

/-- `s` with another byte in input latch 3. -/
def State.replaceIn3 (s : State) (v : Byte) : State := { s with inp := { s.inp with in3 := v } }

@[simp] theorem replaceIn3_a (s : State) (v : Byte) : (s.replaceIn3 v).a = s.a := rfl
@[simp] theorem replaceIn3_flags (s : State) (v : Byte) : (s.replaceIn3 v).flags = s.flags := rfl
@[simp] theorem replaceIn3_ie (s : State) (v : Byte) : (s.replaceIn3 v).ie = s.ie := rfl

theorem queueInterrupt_replaceIn3 (s : State) (v : Byte) (n : BitVec 3) (delay : Nat) :
    (s.replaceIn3 v).queueInterrupt n delay = (s.queueInterrupt n delay).replaceIn3 v := by
  cases hie : s.ie <;> simp only [State.queueInterrupt, replaceIn3_ie, hie] <;> rfl

/-- No port reads the latch, port 3 among them (45_io_ports.md R232). -/
theorem portRead_replaceIn3 (s : State) (v p : Byte) : (s.replaceIn3 v).portRead p = s.portRead p := rfl

theorem portWrite_replaceIn3 (s : State) (v p w : Byte) :
    (s.replaceIn3 v).portWrite p w = (s.portWrite p w).map fun t => t.replaceIn3 v := by
  unfold State.portWrite
  split_ifs <;> rfl

/-- Every instruction commutes with replacing the latch: the port instructions by the port laws, the conditional
transfers on each side of the condition, and the writes of a register or pair whichever it is. -/
theorem exec_replaceIn3 {i : Instr} {s t : State} (h : exec i s = .next t) (v : Byte) :
    exec i (s.replaceIn3 v) = .next (t.replaceIn3 v) := by
  cases i
  case inPort p =>
    simp only [exec, execIn, portRead_replaceIn3] at h ⊢
    split at h <;> cases h <;> rfl
  case outPort p =>
    simp only [exec, execOut, replaceIn3_a, portWrite_replaceIn3] at h ⊢
    split at h <;> next heq => cases h; rw [heq]; rfl
  case movRR dst _ | movRM dst | mviR dst _ | inrR dst | dcrR dst => cases h; cases dst <;> rfl
  case lxi rp _ | inx rp | dcx rp | popRp rp => cases h; cases rp <;> rfl
  case jcond ccc _ | ccond ccc _ | rcond ccc =>
    cases h
    cases hcond : s.flags.cond ccc <;>
      simp only [exec, execJcond, execCcond, execRcond, replaceIn3_flags, hcond] <;> rfl
  case rst n => cases h; exact congrArg _ (queueInterrupt_replaceIn3 s v n _)
  all_goals cases h; rfl

/-- Settles O20: what commutes with replacing the latch neither observes nor writes it. -/
theorem inputLatch3IsNeverRead : Obligations.InputLatch3IsNeverRead := by
  intro i s v
  obtain ⟨t, ht⟩ := exec_next i s
  exact ⟨t, ht, exec_replaceIn3 ht v⟩

end Sys2Proof.Machine
end
section
/-! The frame of every instruction (10_state.md R29; 30_encoding.md R89): a state that differs from another in a
footprint alone is that other one updated within it, which an instruction's next state is by computation; the stores are
framed by the laws of the byte array. -/

namespace Sys2Proof.Machine

/-- `s` with the parts of the footprint, PC and memory as in `t`. -/
def State.updatedWithin (f : Footprint) (s t : State) : State where
  a := if .a ∈ f.regs then t.a else s.a
  b := if .b ∈ f.regs then t.b else s.b
  c := if .c ∈ f.regs then t.c else s.c
  d := if .d ∈ f.regs then t.d else s.d
  e := if .e ∈ f.regs then t.e else s.e
  h := if .h ∈ f.regs then t.h else s.h
  l := if .l ∈ f.regs then t.l else s.l
  sp := if f.sp then t.sp else s.sp
  pc := t.pc
  flags :=
    { z := if f.zsp then t.flags.z else s.flags.z
      s := if f.zsp then t.flags.s else s.flags.s
      p := if f.zsp then t.flags.p else s.flags.p
      cy := if f.cy then t.flags.cy else s.flags.cy
      ac := if f.ac then t.flags.ac else s.flags.ac }
  ie := if f.ie then t.ie else s.ie
  icount := s.icount
  queue := if f.queue then t.queue else s.queue
  inp := s.inp
  out :=
    { out0 := if 0 ∈ f.outs then t.out.out0 else s.out.out0
      out1 := if 1 ∈ f.outs then t.out.out1 else s.out.out1
      out2 := if 2 ∈ f.outs then t.out.out2 else s.out.out2
      out3 := if 3 ∈ f.outs then t.out.out3 else s.out.out3
      out4 := if 4 ∈ f.outs then t.out.out4 else s.out.out4
      out5 := if 5 ∈ f.outs then t.out.out5 else s.out.out5
      out6 := if 6 ∈ f.outs then t.out.out6 else s.out.out6 }
  shift := if f.shift then t.shift else s.shift
  mem := t.mem
  runState := if f.run then t.runState else s.runState
  fault := if f.run then t.fault else s.fault
  draws := if f.draws then t.draws else s.draws

/-- An update within a footprint leaves the other registers. -/
theorem updatedWithin_getReg {f : Footprint} (s t : State) {r : Reg} (hr : r ∉ f.regs) :
    (s.updatedWithin f t).getReg r = s.getReg r := by
  cases r <;> exact if_neg hr

/-- It leaves the other output latches. -/
theorem updatedWithin_getOutput {f : Footprint} (s t : State) {k : Nat} (hk : k ∉ f.outs) :
    (s.updatedWithin f t).getOutput k = s.getOutput k := by
  match k with
  | 0 | 1 | 2 | 3 | 4 | 5 | 6 => exact congrArg some (if_neg hk)
  | k + 7 => rfl

/-- A state that is `s` updated within a footprint differs from `s` nowhere outside it, if its memory does not. -/
theorem State.SameOutside.of_eq {f : Footprint} {s t : State} (h : t = s.updatedWithin f t)
    (hmem : ∀ x, (∀ y ∈ f.stores, memIndex x ≠ memIndex y) → t.memRead x = s.memRead x) : State.SameOutside f s t where
  regs r hr := by rw [h]; exact updatedWithin_getReg s t hr
  sp hf := by rw [h]; simp [State.updatedWithin, hf]
  zsp hf := by rw [h]; simp [State.updatedWithin, hf]
  cy hf := by rw [h]; simp [State.updatedWithin, hf]
  ac hf := by rw [h]; simp [State.updatedWithin, hf]
  ie hf := by rw [h]; simp [State.updatedWithin, hf]
  icount := by rw [h]; rfl
  queue hf := by rw [h]; simp [State.updatedWithin, hf]
  inp := by rw [h]; rfl
  outs k hk := by rw [h]; exact updatedWithin_getOutput s t hk
  shift hf := by rw [h]; simp [State.updatedWithin, hf]
  run hf := by rw [h]; simp [State.updatedWithin, hf]
  draws hf := by rw [h]; simp [State.updatedWithin, hf]
  mem := hmem

/-! ### Stores -/

theorem memRead_memWrite_of_not_stored {s : State} (hwf : Memory.wf s.mem = true) {x y : Word} (v : Byte)
    (h : ∀ z ∈ [y], memIndex x ≠ memIndex z) : (s.memWrite y v).memRead x = s.memRead x := by
  rw [memRead_memWrite hwf, if_neg (h y (by simp))]

theorem memRead_of_writesWord_of_not_stored {s t : State} {x y v : Word} (hword : State.WritesWord s t y v)
    (h : ∀ z ∈ [y, y + 1], memIndex x ≠ memIndex z) : t.memRead x = s.memRead x :=
  memRead_of_writesWord_ne hword (h y (by simp)) (h (y + 1) (by simp))

/-! ### RST and the port instructions -/

theorem exec_rst_sameOutside {n : BitVec 3} {s t : State} (h : exec (.rst n) s = .next t) :
    State.SameOutside (footprint (.rst n) s) s t := by
  rw [rstQueuesARequest] at h
  split_ifs at h with hie <;> cases h
  · have hfootprint : footprint (.rst n) s = { queue := true } := by simp [footprint, hie]
    rw [hfootprint]
    exact .of_eq rfl fun _ _ => rfl
  · have hfootprint : footprint (.rst n) s = {} := by simp [footprint, hie]
    rw [hfootprint]
    exact .of_eq rfl fun _ _ => rfl

theorem exec_inPort_sameOutside {p : Byte} {s t : State} (h : exec (.inPort p) s = .next t) :
    State.SameOutside (footprint (.inPort p) s) s t := by
  simp only [exec, execIn] at h
  split at h <;> cases h
  · next v hv =>
    have hp : p.toNat < 4 := Nat.lt_of_not_le fun hge => nomatch (portRead_eq_none.2 hge).symm.trans hv
    rw [footprint, if_pos hp]
    exact .of_eq rfl fun _ _ => rfl
  · next hnone =>
    rw [footprint, if_neg (Nat.not_lt.2 (portRead_eq_none.1 hnone))]
    exact .of_eq rfl fun _ _ => rfl

theorem exec_outPort_sameOutside {p : Byte} {s t : State} (h : exec (.outPort p) s = .next t) :
    State.SameOutside (footprint (.outPort p) s) s t := by
  simp only [exec, execOut] at h
  split at h <;> cases h
  · next u hu =>
    obtain ⟨rfl, rfl⟩ | ⟨rfl, rfl⟩ | ⟨rfl, rfl⟩ | ⟨rfl, rfl⟩ | ⟨rfl, rfl⟩ | ⟨rfl, rfl⟩ | ⟨rfl, rfl⟩ :=
      portWrite_cases hu <;> exact .of_eq rfl fun _ _ => rfl
  · next hnone =>
    have hp : 7 ≤ p.toNat := portWrite_eq_none.1 hnone
    rw [footprint, if_neg (by rintro rfl; exact absurd hp (by decide)), if_neg (Nat.not_lt.2 hp)]
    exact .of_eq rfl fun _ _ => rfl

/-! ### Every instruction -/

/-- Settles O19, form by form: the update computes once the written register or pair and the condition are known. -/
theorem instructionsWriteOnlyTheirFootprint : Obligations.InstructionsWriteOnlyTheirFootprint := by
  intro i s t hwf h
  cases i
  case inPort => exact exec_inPort_sameOutside h
  case outPort => exact exec_outPort_sameOutside h
  case movMR | mviM | sta | stax | inrM | dcrM =>
    cases h; exact .of_eq rfl fun _ => memRead_memWrite_of_not_stored hwf _
  case shld | xthl =>
    cases h; exact .of_eq rfl fun _ => memRead_of_writesWord_of_not_stored (writesWord_memWrite16 hwf _ _)
  case call | pushRp | pushPsw =>
    cases h; exact .of_eq rfl fun _ => memRead_of_writesWord_of_not_stored (writesWord_push16 hwf _)
  case ccond ccc a16 =>
    cases h
    cases hcond : s.flags.cond ccc <;> simp only [footprint, hcond]
    · exact .of_eq rfl fun _ _ => rfl
    · exact .of_eq rfl fun _ => memRead_of_writesWord_of_not_stored (writesWord_push16 hwf _)
  case jcond ccc _ =>
    cases h
    cases hcond : s.flags.cond ccc <;> exact .of_eq rfl fun _ _ => rfl
  case rcond ccc =>
    cases h
    cases hcond : s.flags.cond ccc <;> simp only [footprint, hcond] <;> exact .of_eq rfl fun _ _ => rfl
  case rst => exact exec_rst_sameOutside h
  case movRR dst _ | movRM dst | mviR dst _ | inrR dst | dcrR dst =>
    cases h; cases dst <;> exact .of_eq rfl fun _ _ => rfl
  case lxi rp _ | inx rp | dcx rp | popRp rp => cases h; cases rp <;> exact .of_eq rfl fun _ _ => rfl
  all_goals cases h; exact .of_eq rfl fun _ _ => rfl

end Sys2Proof.Machine
end
